-- ==== Sys2Proof/Word.lean ====
section
/-! DEFINITION. The word types of the block: bytes, addresses, offsets, and the four fields of a frame header. -/

namespace Sys2Proof

/-- `u8` of R7: one byte. -/
abbrev Byte := BitVec 8

/-- `u16` of R7: an Address (R12), the width of SADDR (R21). -/
abbrev Addr := BitVec 16

/-- A channel offset (R12), one byte, the width of SOFF (R22). -/
abbrev Off := BitVec 8

/-- The fields of the 6-byte frame header (R70): destination address, destination
channel offset, sender's address, sender's channel offset. -/
structure Header where
  da : Addr
  dOff : Off
  sa : Addr
  sOff : Off
deriving DecidableEq, Repr

end Sys2Proof
end

