-- ==== Sys2Proof/Config.lean ====
section
/-! DEFINITION. What is fixed for the machine: the constants of R5, the parameters of R6, the kinds
of status of R181, and the free values of 93_implementation_defined.md. -/

namespace Sys2Proof

/-- R181: the values an operation's status can take. `ok` and the five error kinds of R180. -/
inductive Status where
  | ok
  | encodingError
  | decodingError
  | transportWriteError
  | transportOpenError
  | sessionClosedError
deriving DecidableEq, Repr

/-- R140, R141: the transport's answer to one write: it took the whole frame, or it failed
after taking the first `k` bytes (all of the frame where `k` exceeds its length). -/
inductive WriteAnswer where
  | ok
  | fail (k : Nat)
deriving DecidableEq, Repr, Inhabited

/-- R5 `HDR_LEN`. -/
def Config.hdrLen : Nat := 6
/-- R5 `HIGH_FLOOR`, also the threshold of the band select. -/
def Config.highFloor : Int := 850
/-- R5 `LOW_FLOOR`. -/
def Config.lowFloor : Int := 410
/-- R5 `OFF_MIN`. -/
def Config.offMin : Int := 0
/-- R5 `OFF_MAX`. -/
def Config.offMax : Int := 255
/-- R5 `ADDR_MIN`. -/
def Config.addrMin : Int := 0
/-- R5 `ADDR_MAX`. -/
def Config.addrMax : Int := 65535
/-- R5 `SETTLE_MS`: a lower bound for hardware, read by no step (R142, D24). -/
def Config.settleMs : Nat := 100
/-- R5 `REF_BAUD`: the reference environment's, read by no step (R228). -/
def Config.refBaud : Nat := 9600
/-- R5 `REF_RD_TIMEOUT_S` = 0.5 s, here in milliseconds, read by no step (R228). -/
def Config.refRdTimeoutMs : Nat := 500
/-- R5 `REF_SOFF`: the reference profile's operand of CONSTRUCT, not a hardwired value (D34). -/
def Config.refSoff : Off := 18

/-- R6 `IN_W`, the width of `cmd_a` and `cmd_c`; at least 18, default 32 (D1). -/
abbrev Config.inW : Nat := 32
/-- R6 `MAX_PAYLOAD`, default none (D20). -/
def Config.maxPayload : Option Nat := none
/-- R6 `SETTLE_AFTER_FAILED_WRITE` (D14). -/
def Config.settleAfterFailedWrite : Bool := true

/-- FREE VALUE (log 2). The status hardware returns for a situation with no defined result:
"any value" (U14). Applied to the model's draw counter. -/
opaque Config.freeStatus : Nat → BitVec 3

/-- FREE VALUE (log 4). The transport's answer to a write where the environment lists none
(U7, U8). Applied to the model's draw counter. -/
opaque Config.freeAnswer : Nat → WriteAnswer

end Sys2Proof
end

