-- ==== Sys2Proof/Syntax.lean ====
section
/-! DEFINITION. The instructions: one constructor per row of spec/opcode_table.json. -/

namespace Sys2Proof

/-- The operations of R80 with the operand lists of R79, and the table's data-format row.
Addresses and channels of a destination are mathematical integers (R106, R134, D1); the sender's
fields have the registers' widths (D2). -/
inductive Instr where
  /-- CONSTRUCT (R131), format I; `tp` is the sampled port `tp_present`. -/
  | construct (sa : Addr) (so : Off) (tp : Bool)
  /-- ENCODE (R106), format K. -/
  | encode (a c : Int) (sa : Addr) (so : Off) (p : List Byte)
  /-- DECODE (R110), format F. -/
  | decode (f : List Byte)
  /-- SEND (R134), format S. -/
  | send (a c : Int) (p : List Byte)
  /-- CLOSE (R146), format Z. -/
  | close
  /-- FRAME_HEADER (R70, R72): the wire format, not an operation. -/
  | frameHeader (h : Header)
deriving DecidableEq, Repr

end Sys2Proof
end

