-- ==== Sys2Proof/WellFormed.lean ====
section
/-! DEFINITION. Which instructions the command ports can carry without saturation. -/

namespace Sys2Proof

/-- `v` is a two's-complement number of `IN_W` bits (D1). -/
def fitsPort (v : Int) : Bool :=
  decide (-(2 ^ (Config.inW - 1) : Int) ≤ v) && decide (v < (2 ^ (Config.inW - 1) : Int))

/-- An instruction is well-formed when its integer operands fit the ports `cmd_a` and `cmd_c`.
Every other operand has its port's width by type (D2). -/
def Instr.wf : Instr → Bool
  | .construct _ _ _ => true
  | .encode a c _ _ _ => fitsPort a && fitsPort c
  | .decode _ => true
  | .send a c _ => fitsPort a && fitsPort c
  | .close => true
  | .frameHeader _ => true

end Sys2Proof
end

