-- ==== Sys2Proof/Decode.lean ====
section
/-! DEFINITION. What stands at the block's inputs, the decoder (total, rejecting by name), the text form LINE,
and the encoder. -/

namespace Sys2Proof

/-- One beat of a byte stream (R34): `data` and the mark of the sequence's final byte. -/
structure Beat where
  data : Byte
  last : Bool
deriving DecidableEq, Repr

/-- A command presented whole at the ports of R34. `empty` is `cmd_empty`; `beats` is what the
stream `in_*` offers. -/
structure Command where
  op : BitVec 3
  a : BitVec Config.inW
  c : BitVec Config.inW
  sa : Addr
  so : Off
  tpPresent : Bool
  empty : Bool
  beats : List Beat
deriving DecidableEq, Repr

/-- One thing the outside does at the block. -/
inductive Input where
  /-- The caller presents nothing, so an agent that can move does. -/
  | idle
  /-- `rst` is sampled 1 (R35, R210, R211); a write under way had delivered `k` bytes. -/
  | reset (k : Nat)
  /-- A command at the ports (R34, R79). -/
  | command (c : Command)
  /-- A line of text at the adapter (R160). -/
  | line (t : List Char)
  /-- Bytes with no operation: a receive path, which the block does not have (R4, R61). -/
  | frame (f : List Byte)
deriving DecidableEq, Repr

/-- Why an input is no instruction. -/
inductive Reject where
  | noOperation
  | resetSampled (k : Nat)
  | reservedOp (op : BitVec 3)
  | inputUnfinished
  | malformedLine
  | truncatedFrame
deriving DecidableEq, Repr

/-! ### Byte and bit helpers -/

/-- `v[15:8]` of R8. -/
def hiByte (v : Addr) : Byte := v.extractLsb' 8 8

/-- `v[7:0]` of R8. -/
def loByte (v : Addr) : Byte := v.extractLsb' 0 8

/-- The concatenation of R8 with `h` the more significant part: `256 * h + l`. -/
def joinBytes (h l : Byte) : Addr := h ++ l

/-- R104, R70: the six header bytes, big-endian (R54). -/
def headerBytes (h : Header) : List Byte :=
  [hiByte h.da, loByte h.da, h.dOff, hiByte h.sa, loByte h.sa, h.sOff]

/-- R77, R110: the header fields of a frame and the bytes after them; none when the frame is
shorter than the header (R82). -/
def splitFrame : List Byte → Option (Header × List Byte)
  | b0 :: b1 :: b2 :: b3 :: b4 :: b5 :: rest => some (⟨joinBytes b0 b1, b2, joinBytes b3 b4, b5⟩, rest)
  | _ => none

/-- R72: the header as one 48-bit word, byte 0 most significant. -/
def headerWord (h : Header) : BitVec 48 := h.da ++ h.dOff ++ h.sa ++ h.sOff

/-- R72 read back: the four fields at bits 47:32, 31:24, 23:8 and 7:0. -/
def headerOfWord (w : BitVec 48) : Header where
  da := w.extractLsb' 32 16
  dOff := w.extractLsb' 24 8
  sa := w.extractLsb' 8 16
  sOff := w.extractLsb' 0 8

/-- R72, R53: the bytes of a 48-bit header word, byte 0 first. -/
def wordBytes (w : BitVec 48) : List Byte :=
  [w.extractLsb' 40 8, w.extractLsb' 32 8, w.extractLsb' 24 8, w.extractLsb' 16 8, w.extractLsb' 8 8,
    w.extractLsb' 0 8]

/-- A byte sequence as the beats of a stream, the final byte marked (R34). -/
def beatsOf : List Byte → List Beat
  | [] => []
  | [b] => [⟨b, true⟩]
  | b :: b' :: bs => ⟨b, false⟩ :: beatsOf (b' :: bs)

/-- The sequence a stream carries up to its marked final byte; none while no beat is marked. -/
def collectBeats : List Beat → Option (List Byte)
  | [] => none
  | b :: bs => if b.last then some [b.data] else (collectBeats bs).map (b.data :: ·)

/-- R34, D21: the input sequence of a command, delimited by `cmd_empty` and `in_last`. -/
def commandSeq (c : Command) : Option (List Byte) := if c.empty then some [] else collectBeats c.beats

/-- D1, R164: the number a port of `IN_W` bits carries for `v`: `v`, or the nearest representable. -/
def saturate (v : Int) : BitVec Config.inW :=
  if v < -(2 ^ (Config.inW - 1) : Int) then BitVec.intMin Config.inW
  else if v < (2 ^ (Config.inW - 1) : Int) then BitVec.ofInt Config.inW v
  else BitVec.intMax Config.inW

/-! ### The command decoder -/

/-- R80: the operation codes on `cmd_op`. -/
def opConstruct : BitVec 3 := 0b001#3
/-- R80. -/
def opEncode : BitVec 3 := 0b010#3
/-- R80. -/
def opDecode : BitVec 3 := 0b011#3
/-- R80. -/
def opSend : BitVec 3 := 0b100#3
/-- R80. -/
def opClose : BitVec 3 := 0b101#3

/-- R79, R80: the operation a command selects, its operands read from the ports of its format.
Codes 0, 6 and 7 are rejected (R81). -/
def decodeCommand (c : Command) : Except Reject Instr :=
  if c.op = opConstruct then .ok (.construct c.sa c.so c.tpPresent)
  else if c.op = opEncode then
    match commandSeq c with
    | some p => .ok (.encode c.a.toInt c.c.toInt c.sa c.so p)
    | none => .error .inputUnfinished
  else if c.op = opDecode then
    match commandSeq c with
    | some f => .ok (.decode f)
    | none => .error .inputUnfinished
  else if c.op = opSend then
    match commandSeq c with
    | some p => .ok (.send c.a.toInt c.c.toInt p)
    | none => .error .inputUnfinished
  else if c.op = opClose then .ok .close
  else .error (.reservedOp c.op)

/-! ### LINE (42_text_adapter.md) -/

/-- R161: the text before the first comma and the text after it; none without a comma. -/
def splitComma : List Char → Option (List Char × List Char)
  | [] => none
  | c :: t => if c = ',' then some ([], t) else (splitComma t).map fun (x, y) => (c :: x, y)

/-- R162: drop leading spaces (U+0020). -/
def dropSpaces : List Char → List Char
  | [] => []
  | c :: t => if c = ' ' then dropSpaces t else c :: t

/-- R162: drop leading and trailing spaces. -/
def trimSpaces (t : List Char) : List Char := (dropSpaces (dropSpaces t).reverse).reverse

/-- R162: the value of a decimal digit. -/
def digitVal (c : Char) : Option Nat :=
  if 48 ≤ c.toNat ∧ c.toNat ≤ 57 then some (c.toNat - 48) else none

/-- R162: read digits after the value `acc` read so far; none at any other character. -/
def digitsVal (acc : Nat) : List Char → Option Nat
  | [] => some acc
  | c :: t =>
    match digitVal c with
    | some d => digitsVal (10 * acc + d) t
    | none => none

/-- R162: one or more decimal digits and nothing else. -/
def natVal : List Char → Option Nat
  | [] => none
  | c :: t => digitsVal 0 (c :: t)

/-- R162: an optional sign and then digits. -/
def signedVal : List Char → Option Int
  | [] => none
  | c :: t =>
    if c = '+' then (natVal t).map Int.ofNat
    else if c = '-' then (natVal t).map fun n => -(Int.ofNat n)
    else (natVal (c :: t)).map Int.ofNat

/-- R162: the integer a part of a line stands for. -/
def intVal (t : List Char) : Option Int := signedVal (trimSpaces t)

/-- R163: the UTF-8 bytes of one character, in the shortest form. -/
def utf8Char (c : Char) : List Byte :=
  let u := c.toNat
  if u ≤ 0x7F then [BitVec.ofNat 8 u]
  else if u ≤ 0x7FF then [BitVec.ofNat 8 (0xC0 + u / 64), BitVec.ofNat 8 (0x80 + u % 64)]
  else if u ≤ 0xFFFF then
    [BitVec.ofNat 8 (0xE0 + u / 4096), BitVec.ofNat 8 (0x80 + u / 64 % 64), BitVec.ofNat 8 (0x80 + u % 64)]
  else
    [BitVec.ofNat 8 (0xF0 + u / 262144), BitVec.ofNat 8 (0x80 + u / 4096 % 64), BitVec.ofNat 8 (0x80 + u / 64 % 64),
      BitVec.ofNat 8 (0x80 + u % 64)]

/-- R163: the payload of a message. -/
def utf8 (t : List Char) : List Byte := t.flatMap utf8Char

/-- R161, R162, R164: the operands of the SEND a line expands to; none for a malformed line. -/
def parseLine (t : List Char) : Option (Int × Int × List Byte) :=
  match splitComma t with
  | none => none
  | some (d, r) =>
    match splitComma r with
    | none => none
    | some (q, m) =>
      match intVal d, intVal q with
      | some a, some c => some (a, c, utf8 m)
      | _, _ => none

/-! ### The decoder -/

/-- The instruction an input presents. -/
def decode : Input → Except Reject Instr
  | .idle => .error .noOperation
  | .reset k => .error (.resetSampled k)
  | .command c => decodeCommand c
  | .line t =>
    match parseLine t with
    | some (a, c, p) => .ok (.send (saturate a).toInt (saturate c).toInt p)
    | none => .error .malformedLine
  | .frame f =>
    match splitFrame f with
    | some (h, _) => .ok (.frameHeader h)
    | none => .error .truncatedFrame

/-! ### The encoder -/

/-- The input a byte sequence and an operation code make, every other port 0 (R34, R79). -/
def blankCommand (op : BitVec 3) (s : List Byte) : Command where
  op := op
  a := 0
  c := 0
  sa := 0
  so := 0
  tpPresent := false
  empty := s.isEmpty
  beats := beatsOf s

/-- R79, R80: the input that presents an instruction, ports its format ignores at 0. -/
def encode : Instr → Input
  | .construct sa so tp => .command { blankCommand opConstruct [] with sa := sa, so := so, tpPresent := tp }
  | .encode a c sa so p =>
    .command { blankCommand opEncode p with a := saturate a, c := saturate c, sa := sa, so := so }
  | .decode f => .command (blankCommand opDecode f)
  | .send a c p => .command { blankCommand opSend p with a := saturate a, c := saturate c }
  | .close => .command (blankCommand opClose [])
  | .frameHeader h => .frame (headerBytes h)

/-! ### The host's table words -/

/-- The input a word of spec/opcode_table.json stands for: the 48-bit row is a frame header (R72);
any other row is a 3-bit code on `cmd_op` with every operand port 0 and an empty input sequence. -/
def tableInput (nbits w : Nat) : Input :=
  if nbits = 48 then .frame (wordBytes (BitVec.ofNat 48 w)) else .command (blankCommand (BitVec.ofNat 3 w) [])

/-- The instruction the decoder reads from a word of the table. -/
def decodeTableWord (nbits w : Nat) : Option Instr :=
  match decode (tableInput nbits w) with
  | .ok i => some i
  | .error _ => none

end Sys2Proof
end

