-- ==== Sys2Proof/Machine/State.lean ====
section
/-! DEFINITION. The state of the block and its surroundings as plain data, the reasons a step can stop, and reset. -/

namespace Sys2Proof.Machine

/-- R25: the values of the life-cycle register STATE. -/
inductive SessionState where
  | unconfigured
  | open
  | settling
  | closed
deriving DecidableEq, Repr

/-- What an operation returns beside its status (R106, R110): nothing, ENCODE's frame, or DECODE's
fields and payload. -/
inductive ResultData where
  | nothing
  | frame (f : List Byte)
  | fields (h : Header) (p : List Byte)
deriving DecidableEq, Repr

/-- One returned result: `rsp_status` and the data (R34, R180). -/
structure Response where
  status : BitVec 3
  data : ResultData
deriving DecidableEq, Repr

/-- R31: where in WIRE one write began and where it ended. -/
structure WriteMark where
  start : Nat
  stop : Nat
deriving DecidableEq, Repr

/-- Everything the spec gives the machine (10_state.md), with the caller's and the transport's
coming inputs (R33). -/
structure State where
  /-- SADDR (R21). -/
  saddr : Addr
  /-- SOFF (R22). -/
  soff : Off
  /-- STATE (R25). -/
  state : SessionState
  /-- The byte index of the frame on its way out (R28). -/
  bidx : Nat
  /-- The frame handed to the transport and not yet answered (R134). -/
  tx : Option (List Byte)
  /-- The status the settling SEND will return (R134, R142). -/
  pending : Option (BitVec 3)
  /-- WIRE (R31). -/
  wire : List Byte
  /-- The write boundaries beside WIRE (R31). -/
  marks : List WriteMark
  /-- The results of all operations since reset, oldest first (R192, R214, R215). -/
  results : List Response
  /-- What the outside presents, next first (R33). -/
  inputs : List Input
  /-- The answers the transport will give, next first (R33). -/
  answers : List WriteAnswer
  /-- The model's own counter of free values taken (log 2). -/
  draws : Nat
deriving DecidableEq, Repr

/-- Why the machine stops with a fault. The block stops for no reason of its own: its errors are results
(R180, R191). -/
inductive Fault where
  /-- Raised by no instruction and no input. It is the name 93_implementation_defined.md U13 would call for
  at a read of SADDR or SOFF where they hold no value ("never read; a model that reads them faults");
  this model has no such read (R35, log 18). Safe. -/
  | identityUnwritten
deriving DecidableEq, Repr

/-- Why an instruction or input has no meaning. -/
inductive Refusal where
  /-- Raised by a dispatch arm with no meaning. Safe. -/
  | notModelled (mnemonic : String)
  /-- Raised by bytes presented with no operation: FRAME_HEADER is a data format and the block has
  no receive path (R4, R61, R80, R81). Safe. -/
  | bareFrame
  /-- Raised by ENCODE and SEND for a payload over a finite `MAX_PAYLOAD` (D20, U5); with the default
  `none` nothing raises it. Safe. -/
  | payloadTooLong
deriving DecidableEq, Repr

/-- R35, R215 (launch from reset). SADDR and SOFF hold no value at reset in the spec; the zeros are
the model's (DESIGN CHOICE, log 1). No input is waiting (log 6). -/
def State.reset : State where
  saddr := 0
  soff := 0
  state := .unconfigured
  bidx := 0
  tx := none
  pending := none
  wire := []
  marks := []
  results := []
  inputs := []
  answers := []
  draws := 0

end Sys2Proof.Machine
end

