-- ==== Sys2Proof/Machine/Flags.lean ====
section
/-! DEFINITION. The three predicates of R29, computed from operands and consumed inside one operation. -/

namespace Sys2Proof.Machine

/-- R100: the strict comparison that selects the high band. -/
def bandHi (c : Int) : Bool := decide (c > Config.highFloor)

/-- R102. -/
def addrOk (a : Int) : Bool := decide (Config.addrMin ≤ a) && decide (a ≤ Config.addrMax)

/-- R103. -/
def offOk (o : Int) : Bool := decide (Config.offMin ≤ o) && decide (o ≤ Config.offMax)

/-- D20: whether a payload of `n` bytes is within a `MAX_PAYLOAD`. -/
def withinMax (m : Option Nat) (n : Nat) : Bool :=
  match m with
  | none => true
  | some k => decide (n ≤ k)

/-- D20 at this block's parameter. -/
def payloadFits (p : List Byte) : Bool := withinMax Config.maxPayload p.length

end Sys2Proof.Machine
end

