-- ==== Sys2Proof/Machine/Operands.lean ====
section
/-! DEFINITION. The codec's pure functions: raw offset, header, frame, byte-layout multiplexer, frame back to fields. -/

namespace Sys2Proof.Machine

/-- R101: the channel less its band floor, exact. -/
def rawOffset (c : Int) : Int := if bandHi c then c - Config.highFloor else c - Config.lowFloor

/-- R104 for checked operands: the header fields. -/
def headerOf (a c : Int) (sa : Addr) (so : Off) : Header where
  da := BitVec.ofInt 16 a
  dOff := BitVec.ofInt 8 (rawOffset c)
  sa := sa
  sOff := so

/-- R106: the frame, or none where EncodingError is raised. -/
def encodeFrame (a c : Int) (sa : Addr) (so : Off) (p : List Byte) : Option (List Byte) :=
  if addrOk a && offOk (rawOffset c) then some (headerBytes (headerOf a c sa so) ++ p) else none

/-- R110: the four fields and the payload, or none where DecodingError is raised. -/
def decodeFrame (f : List Byte) : Option (Header × List Byte) := splitFrame f

/-- R71: the byte the multiplexer emits at byte index `i`; none past the frame's end. -/
def muxByte (h : Header) (p : List Byte) (i : Nat) : Option Byte :=
  match i with
  | 0 => some (hiByte h.da)
  | 1 => some (loByte h.da)
  | 2 => some h.dOff
  | 3 => some (hiByte h.sa)
  | 4 => some (loByte h.sa)
  | 5 => some h.sOff
  | j + 6 => p[j]?

/-- R28: what the multiplexer emits in `n` bytes from byte index `i` on. -/
def emitFrom (h : Header) (p : List Byte) : Nat → Nat → List Byte
  | _, 0 => []
  | i, n + 1 =>
    match muxByte h p i with
    | some b => b :: emitFrom h p (i + 1) n
    | none => []

end Sys2Proof.Machine
end

