-- ==== Sys2Proof/Machine/Ops.lean ====
section
/-! DEFINITION. The shared operations over State: accepting a command, returning a result or an error, starting a
write, the steps of the transport and of the settle timer, holding, reset. -/

namespace Sys2Proof.Machine

/-- R181: the status codes on `rsp_status`. -/
def statusCode : Status → BitVec 3
  | .ok => 0
  | .encodingError => 1
  | .decodingError => 2
  | .transportWriteError => 3
  | .transportOpenError => 4
  | .sessionClosedError => 5

/-- R25: the code of a value of STATE. -/
def stateCode : SessionState → BitVec 2
  | .unconfigured => 0b00#2
  | .open => 0b01#2
  | .settling => 0b10#2
  | .closed => 0b11#2

/-- R27: a transport is bound, and a session live, exactly in OPEN and SETTLING. -/
def live (s : State) : Bool := decide (s.state = .open) || decide (s.state = .settling)

/-- R148, R149: the previous SEND has not returned, so no session operation is accepted. -/
def busy (s : State) : Bool := s.tx.isSome || decide (s.state = .settling)

/-- The command handshake moves: the presented input is taken (R34). -/
def accept (s : State) : State := { s with inputs := s.inputs.tail }

/-- The accepted operation returns `st` with data `d` (R180). -/
def respond (st : BitVec 3) (d : ResultData) (s : State) : State :=
  { accept s with results := s.results ++ [⟨st, d⟩] }

/-- The operation returns OK with `d`. -/
def returnOk (d : ResultData) (s : State) : State := respond (statusCode .ok) d s

/-- `raise E` (R10, R191): the operation ends with the error kind as its result and nothing else;
no state is saved, no mode changes, control goes nowhere. -/
def raiseError (e : Status) (s : State) : State := respond (statusCode e) .nothing s

/-- R81, R133, R147: hardware takes the operation as no operation; the status it returns is a free
value (U14, log 2, log 3). -/
def ignoreOp (s : State) : State :=
  { respond (Config.freeStatus s.draws) .nothing s with draws := s.draws + 1 }

/-- First arrow of R134: the frame is handed to the transport; `bidx` is 0 at its start (R28). -/
def startWrite (f : List Byte) (s : State) : State := { accept s with tx := some f, bidx := 0 }

/-- The transport's answer to the write under way: the next one listed, else a free value
(R33, log 4). -/
def nextAnswer (s : State) : WriteAnswer :=
  match s.answers with
  | w :: _ => w
  | [] => Config.freeAnswer s.draws

/-- The answer has been taken. -/
def dropAnswer (s : State) : State :=
  match s.answers with
  | _ :: ws => { s with answers := ws }
  | [] => { s with draws := s.draws + 1 }

/-- R140, R141: the first `n` bytes of `f` are appended to WIRE as one write, and the write is over;
`bidx` counts the bytes emitted (R28). -/
def recordWrite (f : List Byte) (n : Nat) (s : State) : State :=
  { s with
    wire := s.wire ++ f.take n
    marks := s.marks ++ [⟨s.wire.length, s.wire.length + (f.take n).length⟩]
    bidx := (f.take n).length
    tx := none }

/-- R134, R143: the write has returned; the settle interval runs and the result waits for it. -/
def startSettle (st : Status) (s : State) : State :=
  { s with state := .settling, pending := some (statusCode st) }

/-- A result is delivered to the caller of an operation accepted before. -/
def deliver (st : BitVec 3) (s : State) : State := { s with results := s.results ++ [⟨st, .nothing⟩] }

/-- R141, R143, D14: what follows a failed write, by `SETTLE_AFTER_FAILED_WRITE`. -/
def afterFailedWrite (settle : Bool) (s : State) : State :=
  if settle then startSettle .transportWriteError s else deliver (statusCode .transportWriteError) s

/-- R140, R141: the transport answers the write of `f` with `w`. -/
def finishWrite (f : List Byte) (w : WriteAnswer) (s : State) : State :=
  match w with
  | .ok => startSettle .ok (recordWrite f f.length s)
  | .fail k => afterFailedWrite Config.settleAfterFailedWrite (recordWrite f k s)

/-- The transport's step (R14). -/
def transportStep (f : List Byte) (s : State) : State := finishWrite f (nextAnswer s) (dropAnswer s)

/-- R142: the settle timer's step: STATE goes to OPEN and the pending SEND returns. -/
def timerStep (s : State) : State :=
  match s.pending with
  | some st => { deliver st s with state := .open, pending := none }
  | none => { s with state := .open }

/-- The agent the block waits for moves: the transport while a write is under way, the timer in
SETTLING, nobody otherwise (R14, log 5). -/
def agentStep (s : State) : State :=
  match s.tx with
  | some f => transportStep f s
  | none => if s.state = .settling then timerStep s else s

/-- R13, R148: the operation stays presented while the agent it waits for moves. -/
def hold (s : State) : State := agentStep s

/-- R211: the bytes of a write under way that the transport had accepted (its first `k`) when `rst` came. -/
def deliveredPrefix (k : Nat) (s : State) : List Byte :=
  match s.tx with
  | some f => f.take k
  | none => []

/-- The write boundaries of what `deliveredPrefix` leaves on WIRE: one write, or none where none was
under way (R31, log 11). -/
def deliveredMarks (k : Nat) (s : State) : List WriteMark :=
  match s.tx with
  | some f => [⟨0, (f.take k).length⟩]
  | none => []

/-- R35, R210, R211, R31: `rst` is sampled 1. Every piece of state goes to its value of R35, WIRE and its
boundaries among them, and the operation under way is abandoned with no result; what the transport had
accepted of a write under way stays on WIRE. The coming inputs and answers are the outside's, and the
draw counter is the model's, so a reset leaves them (log 11). -/
def resetBlock (k : Nat) (s : State) : State :=
  { State.reset with
    wire := deliveredPrefix k s
    marks := deliveredMarks k s
    inputs := s.inputs
    answers := s.answers
    draws := s.draws }

/-- What the machine does with an input that is no instruction. A reserved code is taken at once, also
while a write is under way or STATE is SETTLING, so its status then precedes the SEND's: R81, R148 and
R149 are silent on this (DESIGN CHOICE, log 25). -/
def rejectInput (e : Reject) (s : State) : Host.Outcome State Fault Refusal :=
  match e with
  | .noOperation => .next (agentStep (accept s))
  | .resetSampled k => .next (resetBlock k (accept s))
  | .reservedOp _ => .next (ignoreOp s)
  | .inputUnfinished => .next (hold s)
  | .malformedLine => .next (accept s)
  | .truncatedFrame => .refused .bareFrame

end Sys2Proof.Machine
end

