-- ==== Sys2Proof/Machine/Codec.lean ====
section
/-! DEFINITION. The codec operations ENCODE and DECODE (40_codec.md). -/

namespace Sys2Proof.Machine

/-- ENCODE (R106): accepted in every STATE (R148), reads and writes no register (R20). -/
def execEncode (a c : Int) (sa : Addr) (so : Off) (p : List Byte) (s : State) : Host.Outcome State Fault Refusal :=
  if payloadFits p then
    match encodeFrame a c sa so p with
    | some f => .next (returnOk (.frame f) s)
    | none => .next (raiseError .encodingError s)
  else .refused .payloadTooLong

/-- DECODE (R110): accepted in every STATE (R148), reads and writes no register (R20). -/
def execDecode (f : List Byte) (s : State) : Host.Outcome State Fault Refusal :=
  match decodeFrame f with
  | some (h, p) => .next (returnOk (.fields h p) s)
  | none => .next (raiseError .decodingError s)

end Sys2Proof.Machine
end

