-- ==== Sys2Proof/Machine/Frame.lean ====
section
/-! DEFINITION. The table's data-format row FRAME_HEADER. -/

namespace Sys2Proof.Machine

/-- FRAME_HEADER is a wire format and not an operation (R70, R80, R81); a frame that arrives with no
operation would be the receive path that R4 leaves out. -/
def execFrameHeader (_h : Header) (_s : State) : Host.Outcome State Fault Refusal := .refused .bareFrame

end Sys2Proof.Machine
end

