-- ==== Sys2Proof/Machine/Ports.lean ====
section
/-! DEFINITION. The output ports of R34 as views of State and of a result. -/

namespace Sys2Proof.Machine

/-- `tp_claim`: 1 while the session holds the transport (R27). -/
def tpClaim (s : State) : Bool := live s

/-- The settle timer runs exactly in SETTLING (R142, R198). -/
def timerRunning (s : State) : Bool := decide (s.state = .settling)

/-- `tx_valid`: bytes are offered to the transport while a write is under way. -/
def txValid (s : State) : Bool := s.tx.isSome

/-- The beats of the write under way, `tx_last` on the final byte of the write. -/
def txBeats (s : State) : List Beat :=
  match s.tx with
  | some f => beatsOf f
  | none => []

/-- `cmd_ready` for an operation (R148): session operations wait for the previous SEND to return,
ENCODE and DECODE never wait; a bare frame is no operation. -/
def cmdReady (i : Instr) (s : State) : Bool :=
  match i with
  | .construct _ _ _ => !busy s
  | .encode _ _ _ _ _ => true
  | .decode _ => true
  | .send _ _ _ => !busy s
  | .close => !busy s
  | .frameHeader _ => false

/-- The result byte sequence of a response: ENCODE's frame or DECODE's payload (R50). -/
def outSeq (r : Response) : List Byte :=
  match r.data with
  | .nothing => []
  | .frame f => f
  | .fields _ p => p

/-- `rsp_empty` (R34). -/
def rspEmpty (r : Response) : Bool := (outSeq r).isEmpty

/-- The beats on `out_*`, `out_last` on the final byte (R34). -/
def outBeats (r : Response) : List Beat := beatsOf (outSeq r)

end Sys2Proof.Machine
end

