-- ==== Sys2Proof/Machine/Session.lean ====
section
/-! DEFINITION. The session operations CONSTRUCT, SEND and CLOSE (41_session.md). -/

namespace Sys2Proof.Machine

/-- The registers CONSTRUCT writes (R131). -/
def openSession (sa : Addr) (so : Off) (s : State) : State := { s with saddr := sa, soff := so, state := .open }

/-- The register CLOSE writes (R146). -/
def closeSession (s : State) : State := { s with state := .closed }

/-- CONSTRUCT (R131, R132, R133). -/
def execConstruct (sa : Addr) (so : Off) (tp : Bool) (s : State) : Host.Outcome State Fault Refusal :=
  if busy s then .next (hold s)
  else if live s then .next (ignoreOp s)
  else if tp then .next (returnOk .nothing (openSession sa so s))
  else .next (raiseError .transportOpenError s)

/-- SEND up to its write (R134 first arrow, R136, R137, R138); the transport's and the timer's steps go on
from there. SADDR and SOFF are read in a live session only, where a CONSTRUCT has written them (R35,
R36). -/
def execSend (a c : Int) (p : List Byte) (s : State) : Host.Outcome State Fault Refusal :=
  if busy s then .next (hold s)
  else if live s then
    if payloadFits p then
      match encodeFrame a c s.saddr s.soff p with
      | some f => .next (startWrite f s)
      | none => .next (raiseError .encodingError s)
    else .refused .payloadTooLong
  else .next (raiseError .sessionClosedError s)

/-- CLOSE (R146, R147). -/
def execClose (s : State) : Host.Outcome State Fault Refusal :=
  if busy s then .next (hold s)
  else if live s then .next (returnOk .nothing (closeSession s))
  else .next (ignoreOp s)

end Sys2Proof.Machine
end

