-- ==== Sys2Proof/Machine/Dispatch.lean ====
section
/-! DEFINITION. One arm per instruction. -/

namespace Sys2Proof.Machine

def exec (i : Instr) (s : State) : Host.Outcome State Fault Refusal :=
  match i with
  | .construct sa so tp => Sys2Proof.Machine.execConstruct sa so tp s
  | .encode a c sa so p => Sys2Proof.Machine.execEncode a c sa so p s
  | .decode f => Sys2Proof.Machine.execDecode f s
  | .send a c p => Sys2Proof.Machine.execSend a c p s
  | .close => Sys2Proof.Machine.execClose s
  | .frameHeader h => Sys2Proof.Machine.execFrameHeader h s

end Sys2Proof.Machine
end

