-- ==== Sys2Proof/Machine/Step.lean ====
section
/-! DEFINITION. One step of the machine, and where the host places a word to be run. -/

namespace Sys2Proof.Machine

/-- One step. With nothing presented, the agent the block waits for moves; else the first input
is decoded and its instruction runs, or is dealt with as no instruction. -/
def step (s : State) : Host.Outcome State Fault Refusal :=
  match s.inputs with
  | [] => .next (agentStep s)
  | x :: _ =>
    match decode x with
    | .ok i => exec i s
    | .error e => rejectInput e s

/-- `s` with the table's word presented next (log 6). -/
def State.withFetchWord (s : State) (nbits w : Nat) : State := { s with inputs := tableInput nbits w :: s.inputs }

end Sys2Proof.Machine
end

