-- ==== Sys2Proof/Safety.lean ====
section
/-! DEFINITION. What claims speak of: launch in a session, when a run is over, the machine's invariant, and the parts
of State that belong to the block. -/

namespace Sys2Proof.Machine

/-- The state an outcome goes on with, if it does. -/
def after? : Host.Outcome State Fault Refusal → Option State
  | .next s => some s
  | .fault _ => none
  | .refused _ => none

/-- The reason of a refusal, if it is one. -/
def refusal? : Host.Outcome State Fault Refusal → Option Refusal
  | .next _ => none
  | .fault _ => none
  | .refused r => some r

/-- R215, launch in a session with identity `(sa, so)`: OPEN, nothing in flight, no results, and WIRE
a given sequence with its write boundaries. R215 gives no value of `bidx`; the model puts 0, whatever
writes `w0` holds (DESIGN CHOICE, log 26). -/
def launchInSession (sa : Addr) (so : Off) (w0 : List Byte) (marks0 : List WriteMark) : State :=
  { State.reset with saddr := sa, soff := so, state := .open, wire := w0, marks := marks0 }

/-- R214: the last operation has been presented and has returned. -/
def runOver (s : State) : Bool := s.inputs.isEmpty && !busy s

/-- The operations R148 holds while a SEND has not returned. -/
def sessionOp : Instr → Bool
  | .construct _ _ _ => true
  | .send _ _ _ => true
  | .close => true
  | .encode _ _ _ _ _ => false
  | .decode _ => false
  | .frameHeader _ => false

/-- The codec's operations, which depend on no state (R20, R148). -/
def codecOp : Instr → Bool
  | .encode _ _ _ _ _ => true
  | .decode _ => true
  | .construct _ _ _ => false
  | .send _ _ _ => false
  | .close => false
  | .frameHeader _ => false

/-- While a SEND has not returned, this entry lets the transport or the timer move (log 5): an idle caller, a
command whose input sequence has no final byte yet (log 14), or a session operation, which is held (R148,
R149). -/
def waits (x : Input) : Bool :=
  match decode x with
  | .ok i => sessionOp i
  | .error .noOperation => true
  | .error .inputUnfinished => true
  | .error (.resetSampled _) => false
  | .error (.reservedOp _) => false
  | .error .malformedLine => false
  | .error .truncatedFrame => false

/-- Nothing is presented, or what is presented `waits`. -/
def headWaits (xs : List Input) : Bool :=
  match xs with
  | [] => true
  | x :: _ => waits x

/-- What is presented after an agent moved: an idle entry is over, anything else is presented still. -/
def afterWait (xs : List Input) : List Input :=
  match xs with
  | [] => []
  | x :: rest => if x = .idle then rest else x :: rest

/-- R140, R141: how many bytes of `f` reach WIRE under the transport's answer. -/
def bytesTaken (f : List Byte) (w : WriteAnswer) : Nat :=
  match w with
  | .ok => f.length
  | .fail k => min k f.length

/-- R139, R181: the status a SEND returns whose write has that answer. -/
def writeStatus (w : WriteAnswer) : BitVec 3 :=
  match w with
  | .ok => 0
  | .fail _ => 3

/-- A SEND as the caller issues it: the entry that presents it, the frame it stands for, and the
transport's answer to its write. -/
structure IssuedSend where
  input : Input
  frame : List Byte
  answer : WriteAnswer
deriving DecidableEq, Repr

/-- The character of a decimal digit. -/
def digitChar (d : Nat) : Char := Char.ofNat (48 + d)

/-- R162, D25: the text `t` is an integer literal of value `v`: spaces, an optional sign, one or more
decimal digits (`ds`, most significant first), spaces. -/
def IntLiteral (t : List Char) (v : Int) : Prop :=
  ∃ (n m : Nat) (sign : List Char) (ds : List Nat),
    (sign = [] ∨ sign = ['+'] ∨ sign = ['-']) ∧ ds ≠ [] ∧ (∀ d ∈ ds, d < 10) ∧
    t = List.replicate n ' ' ++ sign ++ ds.map digitChar ++ List.replicate m ' ' ∧
    v = (if sign = ['-'] then -1 else 1) * ((Nat.ofDigits 10 ds.reverse : Nat) : Int)

/-- R31: the write boundaries run through WIRE from `from_` to `upTo`, each write beginning where the one
before ended. -/
def marksTile (from_ : Nat) (ms : List WriteMark) (upTo : Nat) : Bool :=
  match ms with
  | [] => decide (from_ = upTo)
  | m :: rest => decide (m.start = from_) && decide (m.start ≤ m.stop) && marksTile m.stop rest upTo

/-- What holds of every state a run from either launch premise reaches. -/
structure Inv (s : State) : Prop where
  /-- A write is under way only in OPEN (R134: STATE goes to SETTLING after it has returned). -/
  tx_open : s.tx.isSome = true → s.state = .open
  /-- A result is pending exactly in SETTLING (R25, R142). -/
  pending_settling : s.pending.isSome = true ↔ s.state = .settling
  /-- The pending result is OK or TransportWriteError (R134). -/
  pending_status : ∀ st, s.pending = some st → st = statusCode .ok ∨ st = statusCode .transportWriteError
  /-- The write boundaries cut WIRE into writes (R31). -/
  marks_tile : marksTile 0 s.marks s.wire.length = true
  /-- The frame under way has a whole header and carries the session's identity (R135). -/
  tx_sender : ∀ f, s.tx = some f →
    6 ≤ f.length ∧ (f.drop 3).take 3 = [hiByte s.saddr, loByte s.saddr, s.soff]
  /-- The byte index is at the start of the frame under way (R28). -/
  tx_bidx : s.tx.isSome = true → s.bidx = 0

end Sys2Proof.Machine
end

