-- ==== Sys2Proof/Certificates/Slice0/Obligations.lean ====
section
/-! DEFINITION. The statements for the provers. Each docstring names the rules of spec/ it formalises. -/

open Sys2Proof Sys2Proof.Machine

/-! ### The codec -/

/-- R100. -/
def Obligations.BandSelectIsStrict : Prop :=
  (∀ c : Int, bandHi c = true ↔ c > 850) ∧ bandHi 850 = false ∧ bandHi 851 = true

/-- R101, with the source's four examples. -/
def Obligations.RawOffsetIsTheFloorDifference : Prop :=
  (∀ c : Int, rawOffset c = if bandHi c then c - 850 else c - 410) ∧
  rawOffset 868 = 18 ∧ rawOffset 433 = 23 ∧ rawOffset 850 = 440 ∧ rawOffset 1200 = 350

/-- R102, R103. -/
def Obligations.RangeChecksAreExact : Prop :=
  (∀ a : Int, addrOk a = true ↔ 0 ≤ a ∧ a ≤ 65535) ∧ (∀ o : Int, offOk o = true ↔ 0 ≤ o ∧ o ≤ 255)

/-- R78: the encodable channels, and which channels give an offset. -/
def Obligations.EncodableChannelsExactly : Prop :=
  (∀ c : Int, offOk (rawOffset c) = true ↔ (410 ≤ c ∧ c ≤ 665) ∨ (851 ≤ c ∧ c ≤ 1105)) ∧
  (∀ c : Int, rawOffset c = 0 ↔ c = 410) ∧
  (∀ o c : Int, 1 ≤ o → o ≤ 255 → (rawOffset c = o ↔ c = 410 + o ∨ c = 850 + o)) ∧
  rawOffset 428 = 18 ∧ rawOffset 868 = 18

/-- R70, R74, R75 (R106): ENCODE's frame byte by byte as numbers, and exactly when there is none. -/
def Obligations.EncodeFrameLayout : Prop :=
  ∀ (a c : Int) (sa : Addr) (so : Off) (p : List Byte),
    let o : Int := if c > 850 then c - 850 else c - 410
    match encodeFrame a c sa so p with
    | some f =>
      (0 ≤ a ∧ a ≤ 65535 ∧ 0 ≤ o ∧ o ≤ 255) ∧ f.length = 6 + p.length ∧
      f.map BitVec.toNat =
        [a.toNat / 256, a.toNat % 256, o.toNat, sa.toNat / 256, sa.toNat % 256, so.toNat] ++ p.map BitVec.toNat
    | none => a < 0 ∨ a > 65535 ∨ o < 0 ∨ o > 255

/-- R71 (R28): the multiplexer's byte at each byte index, and what it emits from index 0 on is the frame. -/
def Obligations.MultiplexerEmitsTheFrame : Prop :=
  ∀ (h : Header) (p : List Byte),
    (muxByte h p 0).map BitVec.toNat = some (h.da.toNat / 256) ∧
    (muxByte h p 1).map BitVec.toNat = some (h.da.toNat % 256) ∧
    muxByte h p 2 = some h.dOff ∧
    (muxByte h p 3).map BitVec.toNat = some (h.sa.toNat / 256) ∧
    (muxByte h p 4).map BitVec.toNat = some (h.sa.toNat % 256) ∧
    muxByte h p 5 = some h.sOff ∧
    (∀ i, muxByte h p (6 + i) = p[i]?) ∧
    emitFrom h p 0 (6 + p.length) = headerBytes h ++ p

/-- R106, R20, R148: ENCODE completes in every state; it returns the frame, or EncodingError, and
changes nothing but the command port and the result list. -/
def Obligations.EncodeCompletes : Prop :=
  ∀ (a c : Int) (sa : Addr) (so : Off) (p : List Byte) (s : State),
    exec (.encode a c sa so p) s = .next { s with
      inputs := s.inputs.tail
      results := s.results ++
        [if 0 ≤ a ∧ a ≤ 65535 ∧ ((410 ≤ c ∧ c ≤ 665) ∨ (851 ≤ c ∧ c ≤ 1105)) then
          ⟨0, .frame (headerBytes
            ⟨BitVec.ofInt 16 a, BitVec.ofInt 8 (if c > 850 then c - 850 else c - 410), sa, so⟩ ++ p)⟩
        else ⟨1, .nothing⟩] }

/-- R110, R82, R112, R148: DECODE completes in every state; it returns the fields and the payload, or
DecodingError exactly below six bytes, and changes nothing but the command port and the result list. -/
def Obligations.DecodeCompletes : Prop :=
  (∀ (f : List Byte) (s : State), f.length < 6 →
    exec (.decode f) s = .next { s with
      inputs := s.inputs.tail
      results := s.results ++ [⟨2, .nothing⟩] }) ∧
  (∀ (b0 b1 b2 b3 b4 b5 : Byte) (p : List Byte) (s : State),
    exec (.decode (b0 :: b1 :: b2 :: b3 :: b4 :: b5 :: p)) s = .next { s with
      inputs := s.inputs.tail
      results := s.results ++
        [⟨0, .fields ⟨BitVec.ofNat 16 (256 * b0.toNat + b1.toNat), b2,
          BitVec.ofNat 16 (256 * b3.toNat + b4.toNat), b5⟩ p⟩] })

/-- R20: what ENCODE and DECODE return depends on their operands alone. -/
def Obligations.CodecResultsIgnoreState : Prop :=
  ∀ i : Instr, codecOp i = true → ∃ r : Response, ∀ s : State,
    exec i s = .next { s with inputs := s.inputs.tail, results := s.results ++ [r] }

/-- R113. -/
def Obligations.CodecRoundTrip : Prop :=
  ∀ (a c : Int) (sa : Addr) (so : Off) (p : List Byte), addrOk a = true → offOk (rawOffset c) = true →
    ∃ (f : List Byte) (h : Header), encodeFrame a c sa so p = some f ∧ decodeFrame f = some (h, p) ∧
      (h.da.toNat : Int) = a ∧ (h.dOff.toNat : Int) = rawOffset c ∧ h.sa = sa ∧ h.sOff = so

/-- R114: the decoded fields and payload give the frame back, the header arithmetic is a bijection, and
the channels that encode to a decoded offset are `410 + do` always and `850 + do` when `do >= 1`. -/
def Obligations.ReassemblyRestoresFrame : Prop :=
  (∀ f : List Byte, 6 ≤ f.length → ∃ h p, decodeFrame f = some (h, p) ∧ headerBytes h ++ p = f) ∧
  (∀ (h : Header) (p : List Byte), decodeFrame (headerBytes h ++ p) = some (h, p)) ∧
  (∀ (h : Header) (c : Int), rawOffset c = (h.dOff.toNat : Int) ↔
    c = 410 + (h.dOff.toNat : Int) ∨ (1 ≤ h.dOff.toNat ∧ c = 850 + (h.dOff.toNat : Int)))

/-- R72 (R54): the header as one 48-bit word, its field positions, and both directions. -/
def Obligations.HeaderWordLayout : Prop :=
  (∀ h : Header, (headerWord h).toNat =
      h.da.toNat * 2 ^ 32 + h.dOff.toNat * 2 ^ 24 + h.sa.toNat * 2 ^ 8 + h.sOff.toNat ∧
    wordBytes (headerWord h) = headerBytes h ∧ headerOfWord (headerWord h) = h) ∧
  (∀ w : BitVec 48, headerWord (headerOfWord w) = w)

/-- D1, R164: a port of `IN_W` bits that saturates changes no result of the codec. -/
def Obligations.SaturationChangesNoEncoding : Prop :=
  ∀ (a c : Int) (sa : Addr) (so : Off) (p : List Byte),
    encodeFrame (saturate a).toInt (saturate c).toInt sa so p = encodeFrame a c sa so p

/-- R34, D21: a non-empty sequence crosses a stream port whole, the last beat alone being marked. -/
def Obligations.StreamCarriesTheSequence : Prop :=
  ∀ p : List Byte, (beatsOf p).map Beat.data = p ∧
    (∀ i b, (beatsOf p)[i]? = some b → (b.last = true ↔ i + 1 = p.length)) ∧
    (p ≠ [] → ∀ more, collectBeats (beatsOf p ++ more) = some p)

/-! ### Encoding of the command interface -/

/-- R79, R80, R72: the decoder gives back every well-formed instruction from what presents it. -/
def Obligations.DecodeEncodeAgree : Prop := ∀ i : Instr, i.wf = true → decode (encode i) = .ok i

/-- R80, R79: commands written out port by port decode to the operation they stand for. -/
def Obligations.SampleCommandsDecode : Prop :=
  decode (.command ⟨0b001#3, 7, 9, 5, 18, true, false, []⟩) = .ok (.construct 5 18 true) ∧
  decode (.command ⟨0b010#3, 10, 868, 0, 18, false, false, [⟨0x68, false⟩, ⟨0x69, true⟩]⟩) =
    .ok (.encode 10 868 0 18 [0x68, 0x69]) ∧
  decode (.command ⟨0b011#3, 1, 2, 3, 4, false, false, [⟨0x00, false⟩, ⟨0x0A, true⟩]⟩) = .ok (.decode [0x00, 0x0A]) ∧
  decode (.command ⟨0b100#3, 0xFFFFFFFF, 433, 5, 18, false, true, []⟩) = .ok (.send (-1) 433 []) ∧
  decode (.command ⟨0b101#3, 1, 2, 3, 4, true, false, []⟩) = .ok .close ∧
  decode (.frame [0x01, 0x2C, 0x17, 0x00, 0x05, 0x12]) = .ok (.frameHeader ⟨300, 23, 5, 18⟩)

/-- R80, R81: a code that is none of the five is rejected by name, whatever the other ports carry; in the
model it changes no register and returns a free status (the model's choice, log 3), at once, also while
a SEND has not returned (the model's choice, log 25). -/
def Obligations.ReservedCodesChangeNothing : Prop :=
  ∀ (c : Command) (s : State) (xs : List Input),
    (c.op = 0b000#3 ∨ c.op = 0b110#3 ∨ c.op = 0b111#3) → s.inputs = .command c :: xs →
    decode (.command c) = .error (.reservedOp c.op) ∧
    ∃ st, step s = .next { s with
      inputs := xs
      results := s.results ++ [⟨st, .nothing⟩]
      draws := s.draws + 1 }

/-- R1, R80: what is presented and decodes to an instruction is what the step runs. -/
def Obligations.StepRunsTheDecodedInstruction : Prop :=
  ∀ (s : State) (x : Input) (xs : List Input) (i : Instr), s.inputs = x :: xs → decode x = .ok i →
    step s = exec i s

/-- The table's row FRAME_HEADER, R80, R81, R4: a frame header is no operation; presented bare it is
refused by name. -/
def Obligations.FrameHeaderIsNoOperation : Prop :=
  ∀ (h : Header) (s : State), exec (.frameHeader h) s = .refused .bareFrame

/-- R25, R80, R181: the codes of STATE, of the operations and of the results. -/
def Obligations.CodesAreTheTables : Prop :=
  stateCode .unconfigured = 0b00#2 ∧ stateCode .open = 0b01#2 ∧ stateCode .settling = 0b10#2 ∧
  stateCode .closed = 0b11#2 ∧
  opConstruct = 0b001#3 ∧ opEncode = 0b010#3 ∧ opDecode = 0b011#3 ∧ opSend = 0b100#3 ∧ opClose = 0b101#3 ∧
  statusCode .ok = 0 ∧ statusCode .encodingError = 1 ∧ statusCode .decodingError = 2 ∧
  statusCode .transportWriteError = 3 ∧ statusCode .transportOpenError = 4 ∧ statusCode .sessionClosedError = 5

/-! ### CONSTRUCT -/

/-- R131: with the transport present and no live session CONSTRUCT stores the identity and opens. -/
def Obligations.ConstructOpensSession : Prop :=
  ∀ (sa : Addr) (so : Off) (s : State), s.tx = none → (s.state = .unconfigured ∨ s.state = .closed) →
    exec (.construct sa so true) s = .next { s with
      saddr := sa
      soff := so
      state := .open
      inputs := s.inputs.tail
      results := s.results ++ [⟨0, .nothing⟩] }

/-- R132: with the transport absent CONSTRUCT returns TransportOpenError, writes no register, and the
block stays ready for another CONSTRUCT. -/
def Obligations.ConstructWithoutTransport : Prop :=
  ∀ (sa : Addr) (so : Off) (s : State), s.tx = none → (s.state = .unconfigured ∨ s.state = .closed) →
    ∃ t, exec (.construct sa so false) s = .next t ∧
      t = { s with inputs := s.inputs.tail, results := s.results ++ [⟨4, .nothing⟩] } ∧
      ∀ sa' so', ∃ u, exec (.construct sa' so' true) t = .next u ∧ u.state = .open ∧
        u.saddr = sa' ∧ u.soff = so'

/-- R133, U14: in OPEN a CONSTRUCT writes no register, with either value of `tp_present`; in the model
it returns a free status (the model's choice, log 3). -/
def Obligations.ConstructOnLiveSessionIgnored : Prop :=
  ∀ (sa : Addr) (so : Off) (tp : Bool) (s : State), s.tx = none → s.state = .open →
    ∃ st, exec (.construct sa so tp) s = .next { s with
      inputs := s.inputs.tail
      results := s.results ++ [⟨st, .nothing⟩]
      draws := s.draws + 1 }

/-! ### SEND -/

/-- R134, R135, R28: in OPEN a SEND of encodable operands hands the transport the frame that carries SADDR
and SOFF, from byte index 0, and nothing else changes. -/
def Obligations.SendHandsTheFrameOver : Prop :=
  ∀ (a c : Int) (p : List Byte) (s : State), s.tx = none → s.state = .open → 0 ≤ a → a ≤ 65535 →
    ((410 ≤ c ∧ c ≤ 665) ∨ (851 ≤ c ∧ c ≤ 1105)) →
    exec (.send a c p) s = .next { s with
      inputs := s.inputs.tail
      bidx := 0
      tx := some (headerBytes
        ⟨BitVec.ofInt 16 a, BitVec.ofInt 8 (if c > 850 then c - 850 else c - 410), s.saddr, s.soff⟩ ++ p) }

/-- R136: in OPEN a SEND whose encode step fails returns EncodingError at once and writes nothing. -/
def Obligations.SendRaisesEncodingError : Prop :=
  ∀ (a c : Int) (p : List Byte) (s : State), s.tx = none → s.state = .open →
    ¬ (0 ≤ a ∧ a ≤ 65535 ∧ ((410 ≤ c ∧ c ≤ 665) ∨ (851 ≤ c ∧ c ≤ 1105))) →
    exec (.send a c p) s = .next { s with
      inputs := s.inputs.tail
      results := s.results ++ [⟨1, .nothing⟩] }

/-- R137, R138: with no live session a SEND returns SessionClosedError whatever its operands, and writes
nothing. -/
def Obligations.SendWithoutSession : Prop :=
  ∀ (a c : Int) (p : List Byte) (s : State), s.tx = none → (s.state = .unconfigured ∨ s.state = .closed) →
    exec (.send a c p) s = .next { s with
      inputs := s.inputs.tail
      results := s.results ++ [⟨5, .nothing⟩] }

/-- R140, and R134, R143 for the settle interval that starts: the transport takes the whole frame as one
write, whatever is presented meanwhile that does not go before it (nothing, an idle entry, a held session
operation, an unfinished command; logs 5, 13, 14). That `bidx` is then the frame's length is the
model's choice (log 10). -/
def Obligations.TransportAcceptsTheWrite : Prop :=
  ∀ (f : List Byte) (ws : List WriteAnswer) (s : State), headWaits s.inputs = true → s.tx = some f →
    s.answers = .ok :: ws →
    step s = .next { s with
      inputs := afterWait s.inputs
      wire := s.wire ++ f
      marks := s.marks ++ [⟨s.wire.length, s.wire.length + f.length⟩]
      bidx := f.length
      tx := none
      state := .settling
      pending := some 0
      answers := ws }

/-- R141, R143: a failed write appends the prefix the transport took, any `k` up to the whole frame, and the
settle interval starts all the same, whatever is presented meanwhile that does not go before it (logs 5,
13, 14). That `bidx` is then `k` is the model's choice (log 10), and that a failed write has a boundary
is log 19. -/
def Obligations.TransportFailsAfterAnyPrefix : Prop :=
  ∀ (f : List Byte) (k : Nat) (ws : List WriteAnswer) (s : State), k ≤ f.length → headWaits s.inputs = true →
    s.tx = some f → s.answers = .fail k :: ws →
    step s = .next { s with
      inputs := afterWait s.inputs
      wire := s.wire ++ f.take k
      marks := s.marks ++ [⟨s.wire.length, s.wire.length + k⟩]
      bidx := k
      tx := none
      state := .settling
      pending := some 3
      answers := ws }

/-- R140, R141, U7, U8: where no answer is listed the transport's answer is free (log 4), and what follows
is one of the two outcomes, whatever is presented meanwhile that does not go before it (logs 5, 13, 14).
That `bidx` is then `k` is the model's choice (log 10), and that a failed write has a boundary is log 19. -/
def Obligations.FreeAnswerIsOneOfTheTwo : Prop :=
  ∀ (f : List Byte) (s : State), headWaits s.inputs = true → s.tx = some f → s.answers = [] →
    ∃ (k : Nat) (st : BitVec 3), k ≤ f.length ∧ (st = 0 ∧ k = f.length ∨ st = 3) ∧
      step s = .next { s with
        inputs := afterWait s.inputs
        wire := s.wire ++ f.take k
        marks := s.marks ++ [⟨s.wire.length, s.wire.length + k⟩]
        bidx := k
        tx := none
        state := .settling
        pending := some st
        draws := s.draws + 1 }

/-- R142: the timer's step opens the session again and lets the pending SEND return, whatever is presented
meanwhile that does not go before it (logs 5, 14, R148). -/
def Obligations.TimerStepReturnsTheSend : Prop :=
  ∀ (st : BitVec 3) (s : State), headWaits s.inputs = true → s.tx = none → s.state = .settling →
    s.pending = some st →
    step s = .next { s with
      inputs := afterWait s.inputs
      state := .open
      pending := none
      results := s.results ++ [⟨st, .nothing⟩] }

/-- R14, D21 (logs 5, 14): an idle entry is over after one step, and a command whose input sequence has no
final byte stays presented; in both the agent the block waits for moves, and where it waits for none
nothing else changes. The model's choice. -/
def Obligations.IdleAndUnfinishedLetTheAgentMove : Prop :=
  (∀ (xs : List Input) (s : State), s.inputs = .idle :: xs →
    step s = .next { agentStep s with inputs := xs } ∧
    (busy s = false → step s = .next { s with inputs := xs })) ∧
  (∀ (c : Command) (xs : List Input) (s : State), s.inputs = .command c :: xs →
    (c.op = 0b010#3 ∨ c.op = 0b011#3 ∨ c.op = 0b100#3) → c.empty = false → (∀ b ∈ c.beats, b.last = false) →
    decode (.command c) = .error .inputUnfinished ∧
    step s = .next (agentStep s) ∧ (agentStep s).inputs = s.inputs ∧
    (busy s = false → step s = .next s))

/-- R134, R139 (its two rows with a write): a SEND runs through the three steps of its three agents and
returns OK, or TransportWriteError with any prefix written, whatever follows it that does not go before
its agents (idle entries, held session operations, unfinished commands; logs 5, 13, 14). That `bidx` is
then the number of bytes written is the model's choice (log 10), and that a failed write has a boundary is
log 19. -/
def Obligations.SendRunsToItsReturn : Prop :=
  ∀ (a c : Int) (p f : List Byte) (x : Input) (ys : List Input) (w : WriteAnswer) (ws : List WriteAnswer)
    (s : State),
    s.tx = none → s.state = .open → s.inputs = x :: ys → headWaits ys = true → headWaits (afterWait ys) = true →
    decode x = .ok (.send a c p) → encodeFrame a c s.saddr s.soff p = some f → s.answers = w :: ws →
    core.run 3 s = .next { s with
      inputs := afterWait (afterWait ys)
      answers := ws
      wire := s.wire ++ f.take (bytesTaken f w)
      marks := s.marks ++ [⟨s.wire.length, s.wire.length + bytesTaken f w⟩]
      bidx := bytesTaken f w
      pending := none
      results := s.results ++ [⟨writeStatus w, .nothing⟩] }

/-- R62 (a), (b), R58, R59: SENDs presented one after another reach WIRE in the order issued, each one's
frame, or the prefix its failed write delivered, whole before any byte of the next, as one write each;
their results come in that order, and what is presented after them is still presented. The transport's
answers are listed (log 4), each SEND waits for the one before it (R149, log 13), and a failed write has a
boundary too (log 19). -/
def Obligations.SendsReachWireInOrder : Prop :=
  ∀ (l : List IssuedSend) (ys : List Input) (ws : List WriteAnswer) (s : State),
    s.tx = none → s.state = .open → s.inputs = l.map (·.input) ++ ys → s.answers = l.map (·.answer) ++ ws →
    (∀ e ∈ l, ∃ a c p, decode e.input = .ok (.send a c p) ∧ encodeFrame a c s.saddr s.soff p = some e.frame) →
    (∀ y, ys.head? = some y → ∃ i, decode y = .ok i ∧ sessionOp i = true) →
    ∃ t, core.run (3 * l.length) s = .next t ∧ t.state = .open ∧ t.tx = none ∧ t.inputs = ys ∧ t.answers = ws ∧
      t.saddr = s.saddr ∧ t.soff = s.soff ∧
      t.wire = s.wire ++ (l.map fun e => e.frame.take (bytesTaken e.frame e.answer)).flatten ∧
      t.marks.map (fun m => m.stop - m.start) =
        s.marks.map (fun m => m.stop - m.start) ++ l.map (fun e => bytesTaken e.frame e.answer) ∧
      t.results = s.results ++ l.map (fun e => ⟨writeStatus e.answer, .nothing⟩)

/-- R148: while a SEND settles, a session operation is not taken; the timer's step lifts the hold, and then
the operation, still presented, runs. -/
def Obligations.SettlingHoldsSessionOperations : Prop :=
  ∀ (i : Instr) (x : Input) (xs : List Input) (st : BitVec 3) (s : State), sessionOp i = true →
    s.inputs = x :: xs → decode x = .ok i → s.tx = none → s.state = .settling → s.pending = some st →
    let u : State := { s with state := .open, pending := none, results := s.results ++ [⟨st, .nothing⟩] }
    exec i s = .next u ∧ cmdReady i s = false ∧ cmdReady i u = true ∧ step u = exec i u

/-- R149, R140, R141: while a write is under way, a session operation is not taken either; it stays
presented and the transport's step happens: a listed answer has its effect, and an unlisted one is free
(log 4). That it is held here is log 13, that `bidx` is then the number of bytes taken is the model's choice
(log 10), and that a failed write has a boundary is log 19. -/
def Obligations.WriteHoldsSessionOperations : Prop :=
  ∀ (i : Instr) (f : List Byte) (s : State), sessionOp i = true → s.tx = some f →
    cmdReady i s = false ∧
    (∀ (w : WriteAnswer) (ws : List WriteAnswer), s.answers = w :: ws →
      exec i s = .next { s with
        wire := s.wire ++ f.take (bytesTaken f w)
        marks := s.marks ++ [⟨s.wire.length, s.wire.length + bytesTaken f w⟩]
        bidx := bytesTaken f w
        tx := none
        state := .settling
        pending := some (writeStatus w)
        answers := ws }) ∧
    (s.answers = [] → ∃ (k : Nat) (st : BitVec 3), k ≤ f.length ∧ (st = 0 ∧ k = f.length ∨ st = 3) ∧
      exec i s = .next { s with
        wire := s.wire ++ f.take k
        marks := s.marks ++ [⟨s.wire.length, s.wire.length + k⟩]
        bidx := k
        tx := none
        state := .settling
        pending := some st
        draws := s.draws + 1 })

/-! ### CLOSE -/

/-- R146: CLOSE in OPEN releases the transport and writes nothing else. -/
def Obligations.CloseEndsSession : Prop :=
  ∀ s : State, s.tx = none → s.state = .open →
    ∃ t, exec .close s = .next t ∧ tpClaim t = false ∧
      t = { s with
        state := .closed
        inputs := s.inputs.tail
        results := s.results ++ [⟨0, .nothing⟩] }

/-- R147, U14: outside a session CLOSE is no operation; in the model it returns a free status (the
model's choice, log 3). -/
def Obligations.CloseOutsideSessionIgnored : Prop :=
  ∀ s : State, s.tx = none → (s.state = .unconfigured ∨ s.state = .closed) →
    ∃ st, exec .close s = .next { s with
      inputs := s.inputs.tail
      results := s.results ++ [⟨st, .nothing⟩]
      draws := s.draws + 1 }

/-! ### The whole machine -/

/-- R26: STATE moves only as its table says, each move with its event (a reset of the block apart). -/
def Obligations.StateMovesOnlyByTheTable : Prop :=
  ∀ s t : State, Inv s → step s = .next t → (∀ k, s.inputs.head? ≠ some (.reset k)) →
    t.state = s.state ∨
    ((s.state = .unconfigured ∨ s.state = .closed) ∧ t.state = .open ∧
      ∃ x sa so, s.inputs.head? = some x ∧ decode x = .ok (.construct sa so true)) ∨
    (s.state = .open ∧ t.state = .settling ∧ s.tx.isSome = true ∧ t.tx = none) ∨
    (s.state = .settling ∧ t.state = .open ∧ ∃ st, s.pending = some st ∧
      t.results = s.results ++ [⟨st, .nothing⟩]) ∨
    (s.state = .open ∧ t.state = .closed ∧ s.tx = none ∧
      ∃ x, s.inputs.head? = some x ∧ decode x = .ok .close)

/-- R27: a transport is bound exactly in OPEN and SETTLING. -/
def Obligations.TransportBoundExactlyWhileLive : Prop :=
  ∀ s : State, tpClaim s = true ↔ s.state = .open ∨ s.state = .settling

/-- R23, R21, R22: in a live session no step but a reset of the block writes the identity, and outside one
only a CONSTRUCT with the transport present does. -/
def Obligations.IdentityWrittenByConstructOnly : Prop :=
  ∀ s t : State, step s = .next t → (∀ k, s.inputs.head? ≠ some (.reset k)) →
    (t.saddr = s.saddr ∧ t.soff = s.soff) ∨
    (live s = false ∧ ∃ x, s.inputs.head? = some x ∧ decode x = .ok (.construct t.saddr t.soff true))

/-- R31, R58, R62: a step that is no reset of the block appends to WIRE nothing, or a prefix of the one
frame under way. -/
def Obligations.WireOnlyGrowsByTheFrameUnderWay : Prop :=
  ∀ s t : State, step s = .next t → (∀ k, s.inputs.head? ≠ some (.reset k)) →
    ∃ w, t.wire = s.wire ++ w ∧ (w ≠ [] → ∃ f, s.tx = some f ∧ w <+: f)

/-- R58, R62, R135, R220: a write starts only from a SEND in OPEN, with the frame of that SEND's operands and
the session's identity. -/
def Obligations.WriteStartsOnlyFromSend : Prop :=
  ∀ (s t : State) (f : List Byte), step s = .next t → s.tx = none → t.tx = some f →
    s.state = .open ∧ t.bidx = 0 ∧ ∃ x a c p, s.inputs.head? = some x ∧ decode x = .ok (.send a c p) ∧
      encodeFrame a c s.saddr s.soff p = some f

/-- R31, R134, R135, R142: every step keeps the invariant. -/
def Obligations.StepKeepsInv : Prop := ∀ s t : State, Inv s → step s = .next t → Inv t

/-- R35, R215: the invariant holds at reset and at a launch in a session. -/
def Obligations.InvHoldsAtLaunch : Prop :=
  Inv State.reset ∧
  ∀ (sa : Addr) (so : Off) (w0 : List Byte) (marks0 : List WriteMark),
    marksTile 0 marks0 w0.length = true → Inv (launchInSession sa so w0 marks0)

/-- R35, R36, U13: outside a live session, with no write under way, no step reads SADDR or SOFF. Whatever
else the two registers held, the step would end the same way, its next state differing in those two
registers at most, and not even there once a session is live. -/
def Obligations.IdentityUnreadOutsideSession : Prop :=
  ∀ (s : State) (sa : Addr) (so : Off), live s = false → s.tx = none →
    match step s with
    | .next t => ∃ sa' so', step { s with saddr := sa, soff := so } = .next { t with saddr := sa', soff := so' } ∧
        (live t = true → sa' = t.saddr ∧ so' = t.soff)
    | .fault r => step { s with saddr := sa, soff := so } = .fault r
    | .refused r => step { s with saddr := sa, soff := so } = .refused r

/-- R180, R191, R35, U13: no step ends in a fault. The block's errors are results, and it reads the identity
nowhere but in a live session (log 18). -/
def Obligations.NoStepFaults : Prop := ∀ (s : State) (r : Fault), step s ≠ .fault r

/-- R4, R61 (log 16): the one input a step refuses is a frame with no operation. That nothing else is
refused is the model's choice: log 3 runs as no operation what R81, R133 and R147 let a model refuse, and
log 8 leaves MAX_PAYLOAD at none. -/
def Obligations.OnlyBareFramesAreRefused : Prop :=
  ∀ (s : State) (r : Refusal), step s = .refused r → r = .bareFrame ∧ ∃ f, s.inputs.head? = some (.frame f)

/-- R180, R190: a step that is no reset of the block returns at most one result and withdraws none. -/
def Obligations.AtMostOneResultPerStep : Prop :=
  ∀ s t : State, step s = .next t → (∀ k, s.inputs.head? ≠ some (.reset k)) →
    t.results = s.results ∨ ∃ r, t.results = s.results ++ [r]

/-- R189, R181: which status an operation that is taken at once can return (a CONSTRUCT on a live session
and a CLOSE outside one, whose status is free, apart). -/
def Obligations.StatusesByOperation : Prop :=
  ∀ (i : Instr) (s t : State) (r : Response), exec i s = .next t → cmdReady i s = true →
    t.results = s.results ++ [r] →
    match i with
    | .encode _ _ _ _ _ => r.status = 0 ∨ r.status = 1
    | .decode _ => r.status = 0 ∨ r.status = 2
    | .construct _ _ _ => live s = true ∨ r.status = 0 ∨ r.status = 4
    | .send _ _ _ => r.status = 1 ∨ r.status = 5
    | .close => live s = false ∨ r.status = 0
    | .frameHeader _ => False

/-- R148, R34: an operation the block is ready for is taken, one it is not ready for stays presented. -/
def Obligations.ReadyMeansTaken : Prop :=
  ∀ (i : Instr) (s t : State), exec i s = .next t →
    t.inputs = if cmdReady i s then s.inputs.tail else s.inputs

/-- R142, R149, R214: from any state of a run in which a SEND has not returned, with nothing presented that
goes before its agents (logs 5, 13, 14), two steps at most return it with OK or TransportWriteError and
leave the session open; with nothing presented at all the run is then over. -/
def Obligations.UnreturnedSendReturns : Prop :=
  ∀ s : State, Inv s → busy s = true → headWaits s.inputs = true → headWaits (afterWait s.inputs) = true →
    ∃ (n : Nat) (t : State) (st : BitVec 3), n ≤ 2 ∧ core.run n s = .next t ∧ t.state = .open ∧
      busy t = false ∧ (s.inputs = [] → runOver t = true) ∧
      t.results = s.results ++ [⟨st, .nothing⟩] ∧ (st = 0 ∨ st = 3)

/-! ### Reset -/

/-- R35, R210: the values the spec gives for reset. -/
def Obligations.ResetValues : Prop :=
  stateCode State.reset.state = 0b00#2 ∧ State.reset.bidx = 0 ∧ State.reset.wire = [] ∧
  State.reset.marks = [] ∧ tpClaim State.reset = false ∧ timerRunning State.reset = false ∧
  txValid State.reset = false ∧ State.reset.results = []

/-- R35, R210, R211: `rst` in mid-run puts STATE, `bidx` and WIRE at their reset values and abandons the
operation with no result; what the transport had taken of a write under way stays on WIRE. That it stays
as one write, that the result list starts anew (R215) and that the coming inputs and answers stay are
the model's (log 11). -/
def Obligations.ResetAbandonsTheOperation : Prop :=
  ∀ (k : Nat) (xs : List Input) (s : State), s.inputs = .reset k :: xs →
    ∃ t, step s = .next t ∧ t.state = .unconfigured ∧ t.bidx = 0 ∧ t.tx = none ∧ t.pending = none ∧
      t.inputs = xs ∧ t.answers = s.answers ∧ t.results = [] ∧
      (s.tx = none → t.wire = [] ∧ t.marks = []) ∧
      (∀ f, s.tx = some f → t.wire = f.take k ∧ t.marks = [⟨0, (f.take k).length⟩])

/-! ### LINE -/

/-- R161: a line is cut at its first two commas; with fewer it is malformed. -/
def Obligations.LineSplitsAtTwoCommas : Prop :=
  (∀ d q m : List Char, ',' ∉ d → ',' ∉ q →
    parseLine (d ++ ',' :: (q ++ ',' :: m)) =
      match intVal d, intVal q with
      | some a, some c => some (a, c, utf8 m)
      | _, _ => none) ∧
  (∀ t : List Char, t.count ',' < 2 → parseLine t = none)

/-- R162: the integers of a line are exactly the literals of its syntax. -/
def Obligations.LineIntegerSyntax : Prop :=
  ∀ (t : List Char) (v : Int), intVal t = some v ↔ IntLiteral t v

/-- R163, whose table is general knowledge (G1; log 22, PRESUMED): the bytes of a character are those of
Lean's library encoder, which R163 does not name. -/
def Obligations.MessageBytesAreUtf8 : Prop :=
  (∀ c : Char, (utf8Char c).map BitVec.toNat = (String.utf8EncodeChar c).map UInt8.toNat) ∧
  utf8 [] = [] ∧ ∀ (c : Char) (t : List Char), utf8 (c :: t) = utf8Char c ++ utf8 t

/-- R164, R165: a malformed line performs nothing; any other performs the SEND it stands for, whatever
the size of its integers. That a malformed line is taken at once also while a SEND has not returned, with
no agent moving, is the model's choice (log 17). -/
def Obligations.LinePerformsItsSend : Prop :=
  ∀ (t : List Char) (xs : List Input) (s : State), s.inputs = .line t :: xs →
    match parseLine t with
    | none => step s = .next { s with inputs := xs }
    | some (a, c, p) => step s = exec (.send a c p) s
end

