-- ==== Sys2Proof/Laws/State.lean ====
section
/-! SUPPORT. One lemma per field for each update of State, so that no proof unfolds a record update. -/

namespace Sys2Proof.Machine

@[simp] theorem accept_saddr (s : State) : (accept s).saddr = s.saddr := rfl
@[simp] theorem accept_soff (s : State) : (accept s).soff = s.soff := rfl
@[simp] theorem accept_state (s : State) : (accept s).state = s.state := rfl
@[simp] theorem accept_bidx (s : State) : (accept s).bidx = s.bidx := rfl
@[simp] theorem accept_tx (s : State) : (accept s).tx = s.tx := rfl
@[simp] theorem accept_pending (s : State) : (accept s).pending = s.pending := rfl
@[simp] theorem accept_wire (s : State) : (accept s).wire = s.wire := rfl
@[simp] theorem accept_marks (s : State) : (accept s).marks = s.marks := rfl
@[simp] theorem accept_results (s : State) : (accept s).results = s.results := rfl
@[simp] theorem accept_inputs (s : State) : (accept s).inputs = s.inputs.tail := rfl
@[simp] theorem accept_answers (s : State) : (accept s).answers = s.answers := rfl
@[simp] theorem accept_draws (s : State) : (accept s).draws = s.draws := rfl

@[simp] theorem respond_saddr (st : BitVec 3) (d : ResultData) (s : State) : (respond st d s).saddr = s.saddr := rfl
@[simp] theorem respond_soff (st : BitVec 3) (d : ResultData) (s : State) : (respond st d s).soff = s.soff := rfl
@[simp] theorem respond_state (st : BitVec 3) (d : ResultData) (s : State) : (respond st d s).state = s.state := rfl
@[simp] theorem respond_bidx (st : BitVec 3) (d : ResultData) (s : State) : (respond st d s).bidx = s.bidx := rfl
@[simp] theorem respond_tx (st : BitVec 3) (d : ResultData) (s : State) : (respond st d s).tx = s.tx := rfl
@[simp] theorem respond_pending (st : BitVec 3) (d : ResultData) (s : State) : (respond st d s).pending = s.pending := rfl
@[simp] theorem respond_wire (st : BitVec 3) (d : ResultData) (s : State) : (respond st d s).wire = s.wire := rfl
@[simp] theorem respond_marks (st : BitVec 3) (d : ResultData) (s : State) : (respond st d s).marks = s.marks := rfl
@[simp] theorem respond_results (st : BitVec 3) (d : ResultData) (s : State) : (respond st d s).results = s.results ++ [⟨st, d⟩] := rfl
@[simp] theorem respond_inputs (st : BitVec 3) (d : ResultData) (s : State) : (respond st d s).inputs = s.inputs.tail := rfl
@[simp] theorem respond_answers (st : BitVec 3) (d : ResultData) (s : State) : (respond st d s).answers = s.answers := rfl
@[simp] theorem respond_draws (st : BitVec 3) (d : ResultData) (s : State) : (respond st d s).draws = s.draws := rfl

@[simp] theorem returnOk_saddr (d : ResultData) (s : State) : (returnOk d s).saddr = s.saddr := rfl
@[simp] theorem returnOk_soff (d : ResultData) (s : State) : (returnOk d s).soff = s.soff := rfl
@[simp] theorem returnOk_state (d : ResultData) (s : State) : (returnOk d s).state = s.state := rfl
@[simp] theorem returnOk_bidx (d : ResultData) (s : State) : (returnOk d s).bidx = s.bidx := rfl
@[simp] theorem returnOk_tx (d : ResultData) (s : State) : (returnOk d s).tx = s.tx := rfl
@[simp] theorem returnOk_pending (d : ResultData) (s : State) : (returnOk d s).pending = s.pending := rfl
@[simp] theorem returnOk_wire (d : ResultData) (s : State) : (returnOk d s).wire = s.wire := rfl
@[simp] theorem returnOk_marks (d : ResultData) (s : State) : (returnOk d s).marks = s.marks := rfl
@[simp] theorem returnOk_results (d : ResultData) (s : State) : (returnOk d s).results = s.results ++ [⟨statusCode .ok, d⟩] := rfl
@[simp] theorem returnOk_inputs (d : ResultData) (s : State) : (returnOk d s).inputs = s.inputs.tail := rfl
@[simp] theorem returnOk_answers (d : ResultData) (s : State) : (returnOk d s).answers = s.answers := rfl
@[simp] theorem returnOk_draws (d : ResultData) (s : State) : (returnOk d s).draws = s.draws := rfl

@[simp] theorem raiseError_saddr (e : Status) (s : State) : (raiseError e s).saddr = s.saddr := rfl
@[simp] theorem raiseError_soff (e : Status) (s : State) : (raiseError e s).soff = s.soff := rfl
@[simp] theorem raiseError_state (e : Status) (s : State) : (raiseError e s).state = s.state := rfl
@[simp] theorem raiseError_bidx (e : Status) (s : State) : (raiseError e s).bidx = s.bidx := rfl
@[simp] theorem raiseError_tx (e : Status) (s : State) : (raiseError e s).tx = s.tx := rfl
@[simp] theorem raiseError_pending (e : Status) (s : State) : (raiseError e s).pending = s.pending := rfl
@[simp] theorem raiseError_wire (e : Status) (s : State) : (raiseError e s).wire = s.wire := rfl
@[simp] theorem raiseError_marks (e : Status) (s : State) : (raiseError e s).marks = s.marks := rfl
@[simp] theorem raiseError_results (e : Status) (s : State) : (raiseError e s).results = s.results ++ [⟨statusCode e, .nothing⟩] := rfl
@[simp] theorem raiseError_inputs (e : Status) (s : State) : (raiseError e s).inputs = s.inputs.tail := rfl
@[simp] theorem raiseError_answers (e : Status) (s : State) : (raiseError e s).answers = s.answers := rfl
@[simp] theorem raiseError_draws (e : Status) (s : State) : (raiseError e s).draws = s.draws := rfl

@[simp] theorem ignoreOp_saddr (s : State) : (ignoreOp s).saddr = s.saddr := rfl
@[simp] theorem ignoreOp_soff (s : State) : (ignoreOp s).soff = s.soff := rfl
@[simp] theorem ignoreOp_state (s : State) : (ignoreOp s).state = s.state := rfl
@[simp] theorem ignoreOp_bidx (s : State) : (ignoreOp s).bidx = s.bidx := rfl
@[simp] theorem ignoreOp_tx (s : State) : (ignoreOp s).tx = s.tx := rfl
@[simp] theorem ignoreOp_pending (s : State) : (ignoreOp s).pending = s.pending := rfl
@[simp] theorem ignoreOp_wire (s : State) : (ignoreOp s).wire = s.wire := rfl
@[simp] theorem ignoreOp_marks (s : State) : (ignoreOp s).marks = s.marks := rfl
@[simp] theorem ignoreOp_results (s : State) : (ignoreOp s).results = s.results ++ [⟨Config.freeStatus s.draws, .nothing⟩] := rfl
@[simp] theorem ignoreOp_inputs (s : State) : (ignoreOp s).inputs = s.inputs.tail := rfl
@[simp] theorem ignoreOp_answers (s : State) : (ignoreOp s).answers = s.answers := rfl
@[simp] theorem ignoreOp_draws (s : State) : (ignoreOp s).draws = s.draws + 1 := rfl

@[simp] theorem startWrite_saddr (f : List Byte) (s : State) : (startWrite f s).saddr = s.saddr := rfl
@[simp] theorem startWrite_soff (f : List Byte) (s : State) : (startWrite f s).soff = s.soff := rfl
@[simp] theorem startWrite_state (f : List Byte) (s : State) : (startWrite f s).state = s.state := rfl
@[simp] theorem startWrite_bidx (f : List Byte) (s : State) : (startWrite f s).bidx = 0 := rfl
@[simp] theorem startWrite_tx (f : List Byte) (s : State) : (startWrite f s).tx = some f := rfl
@[simp] theorem startWrite_pending (f : List Byte) (s : State) : (startWrite f s).pending = s.pending := rfl
@[simp] theorem startWrite_wire (f : List Byte) (s : State) : (startWrite f s).wire = s.wire := rfl
@[simp] theorem startWrite_marks (f : List Byte) (s : State) : (startWrite f s).marks = s.marks := rfl
@[simp] theorem startWrite_results (f : List Byte) (s : State) : (startWrite f s).results = s.results := rfl
@[simp] theorem startWrite_inputs (f : List Byte) (s : State) : (startWrite f s).inputs = s.inputs.tail := rfl
@[simp] theorem startWrite_answers (f : List Byte) (s : State) : (startWrite f s).answers = s.answers := rfl
@[simp] theorem startWrite_draws (f : List Byte) (s : State) : (startWrite f s).draws = s.draws := rfl

@[simp] theorem recordWrite_saddr (f : List Byte) (n : Nat) (s : State) : (recordWrite f n s).saddr = s.saddr := rfl
@[simp] theorem recordWrite_soff (f : List Byte) (n : Nat) (s : State) : (recordWrite f n s).soff = s.soff := rfl
@[simp] theorem recordWrite_state (f : List Byte) (n : Nat) (s : State) : (recordWrite f n s).state = s.state := rfl
@[simp] theorem recordWrite_bidx (f : List Byte) (n : Nat) (s : State) : (recordWrite f n s).bidx = (f.take n).length := rfl
@[simp] theorem recordWrite_tx (f : List Byte) (n : Nat) (s : State) : (recordWrite f n s).tx = none := rfl
@[simp] theorem recordWrite_pending (f : List Byte) (n : Nat) (s : State) : (recordWrite f n s).pending = s.pending := rfl
@[simp] theorem recordWrite_wire (f : List Byte) (n : Nat) (s : State) : (recordWrite f n s).wire = s.wire ++ f.take n := rfl
@[simp] theorem recordWrite_marks (f : List Byte) (n : Nat) (s : State) : (recordWrite f n s).marks = s.marks ++ [⟨s.wire.length, s.wire.length + (f.take n).length⟩] := rfl
@[simp] theorem recordWrite_results (f : List Byte) (n : Nat) (s : State) : (recordWrite f n s).results = s.results := rfl
@[simp] theorem recordWrite_inputs (f : List Byte) (n : Nat) (s : State) : (recordWrite f n s).inputs = s.inputs := rfl
@[simp] theorem recordWrite_answers (f : List Byte) (n : Nat) (s : State) : (recordWrite f n s).answers = s.answers := rfl
@[simp] theorem recordWrite_draws (f : List Byte) (n : Nat) (s : State) : (recordWrite f n s).draws = s.draws := rfl

@[simp] theorem startSettle_saddr (st : Status) (s : State) : (startSettle st s).saddr = s.saddr := rfl
@[simp] theorem startSettle_soff (st : Status) (s : State) : (startSettle st s).soff = s.soff := rfl
@[simp] theorem startSettle_state (st : Status) (s : State) : (startSettle st s).state = .settling := rfl
@[simp] theorem startSettle_bidx (st : Status) (s : State) : (startSettle st s).bidx = s.bidx := rfl
@[simp] theorem startSettle_tx (st : Status) (s : State) : (startSettle st s).tx = s.tx := rfl
@[simp] theorem startSettle_pending (st : Status) (s : State) : (startSettle st s).pending = some (statusCode st) := rfl
@[simp] theorem startSettle_wire (st : Status) (s : State) : (startSettle st s).wire = s.wire := rfl
@[simp] theorem startSettle_marks (st : Status) (s : State) : (startSettle st s).marks = s.marks := rfl
@[simp] theorem startSettle_results (st : Status) (s : State) : (startSettle st s).results = s.results := rfl
@[simp] theorem startSettle_inputs (st : Status) (s : State) : (startSettle st s).inputs = s.inputs := rfl
@[simp] theorem startSettle_answers (st : Status) (s : State) : (startSettle st s).answers = s.answers := rfl
@[simp] theorem startSettle_draws (st : Status) (s : State) : (startSettle st s).draws = s.draws := rfl

@[simp] theorem deliver_saddr (st : BitVec 3) (s : State) : (deliver st s).saddr = s.saddr := rfl
@[simp] theorem deliver_soff (st : BitVec 3) (s : State) : (deliver st s).soff = s.soff := rfl
@[simp] theorem deliver_state (st : BitVec 3) (s : State) : (deliver st s).state = s.state := rfl
@[simp] theorem deliver_bidx (st : BitVec 3) (s : State) : (deliver st s).bidx = s.bidx := rfl
@[simp] theorem deliver_tx (st : BitVec 3) (s : State) : (deliver st s).tx = s.tx := rfl
@[simp] theorem deliver_pending (st : BitVec 3) (s : State) : (deliver st s).pending = s.pending := rfl
@[simp] theorem deliver_wire (st : BitVec 3) (s : State) : (deliver st s).wire = s.wire := rfl
@[simp] theorem deliver_marks (st : BitVec 3) (s : State) : (deliver st s).marks = s.marks := rfl
@[simp] theorem deliver_results (st : BitVec 3) (s : State) : (deliver st s).results = s.results ++ [⟨st, .nothing⟩] := rfl
@[simp] theorem deliver_inputs (st : BitVec 3) (s : State) : (deliver st s).inputs = s.inputs := rfl
@[simp] theorem deliver_answers (st : BitVec 3) (s : State) : (deliver st s).answers = s.answers := rfl
@[simp] theorem deliver_draws (st : BitVec 3) (s : State) : (deliver st s).draws = s.draws := rfl

@[simp] theorem openSession_saddr (sa : Addr) (so : Off) (s : State) : (openSession sa so s).saddr = sa := rfl
@[simp] theorem openSession_soff (sa : Addr) (so : Off) (s : State) : (openSession sa so s).soff = so := rfl
@[simp] theorem openSession_state (sa : Addr) (so : Off) (s : State) : (openSession sa so s).state = .open := rfl
@[simp] theorem openSession_bidx (sa : Addr) (so : Off) (s : State) : (openSession sa so s).bidx = s.bidx := rfl
@[simp] theorem openSession_tx (sa : Addr) (so : Off) (s : State) : (openSession sa so s).tx = s.tx := rfl
@[simp] theorem openSession_pending (sa : Addr) (so : Off) (s : State) : (openSession sa so s).pending = s.pending := rfl
@[simp] theorem openSession_wire (sa : Addr) (so : Off) (s : State) : (openSession sa so s).wire = s.wire := rfl
@[simp] theorem openSession_marks (sa : Addr) (so : Off) (s : State) : (openSession sa so s).marks = s.marks := rfl
@[simp] theorem openSession_results (sa : Addr) (so : Off) (s : State) : (openSession sa so s).results = s.results := rfl
@[simp] theorem openSession_inputs (sa : Addr) (so : Off) (s : State) : (openSession sa so s).inputs = s.inputs := rfl
@[simp] theorem openSession_answers (sa : Addr) (so : Off) (s : State) : (openSession sa so s).answers = s.answers := rfl
@[simp] theorem openSession_draws (sa : Addr) (so : Off) (s : State) : (openSession sa so s).draws = s.draws := rfl

@[simp] theorem closeSession_saddr (s : State) : (closeSession s).saddr = s.saddr := rfl
@[simp] theorem closeSession_soff (s : State) : (closeSession s).soff = s.soff := rfl
@[simp] theorem closeSession_state (s : State) : (closeSession s).state = .closed := rfl
@[simp] theorem closeSession_bidx (s : State) : (closeSession s).bidx = s.bidx := rfl
@[simp] theorem closeSession_tx (s : State) : (closeSession s).tx = s.tx := rfl
@[simp] theorem closeSession_pending (s : State) : (closeSession s).pending = s.pending := rfl
@[simp] theorem closeSession_wire (s : State) : (closeSession s).wire = s.wire := rfl
@[simp] theorem closeSession_marks (s : State) : (closeSession s).marks = s.marks := rfl
@[simp] theorem closeSession_results (s : State) : (closeSession s).results = s.results := rfl
@[simp] theorem closeSession_inputs (s : State) : (closeSession s).inputs = s.inputs := rfl
@[simp] theorem closeSession_answers (s : State) : (closeSession s).answers = s.answers := rfl
@[simp] theorem closeSession_draws (s : State) : (closeSession s).draws = s.draws := rfl

@[simp] theorem dropAnswer_saddr (s : State) : (dropAnswer s).saddr = s.saddr := by
  cases h : s.answers <;> simp [dropAnswer, h]
@[simp] theorem dropAnswer_soff (s : State) : (dropAnswer s).soff = s.soff := by
  cases h : s.answers <;> simp [dropAnswer, h]
@[simp] theorem dropAnswer_state (s : State) : (dropAnswer s).state = s.state := by
  cases h : s.answers <;> simp [dropAnswer, h]
@[simp] theorem dropAnswer_bidx (s : State) : (dropAnswer s).bidx = s.bidx := by
  cases h : s.answers <;> simp [dropAnswer, h]
@[simp] theorem dropAnswer_tx (s : State) : (dropAnswer s).tx = s.tx := by
  cases h : s.answers <;> simp [dropAnswer, h]
@[simp] theorem dropAnswer_pending (s : State) : (dropAnswer s).pending = s.pending := by
  cases h : s.answers <;> simp [dropAnswer, h]
@[simp] theorem dropAnswer_wire (s : State) : (dropAnswer s).wire = s.wire := by
  cases h : s.answers <;> simp [dropAnswer, h]
@[simp] theorem dropAnswer_marks (s : State) : (dropAnswer s).marks = s.marks := by
  cases h : s.answers <;> simp [dropAnswer, h]
@[simp] theorem dropAnswer_results (s : State) : (dropAnswer s).results = s.results := by
  cases h : s.answers <;> simp [dropAnswer, h]
@[simp] theorem dropAnswer_inputs (s : State) : (dropAnswer s).inputs = s.inputs := by
  cases h : s.answers <;> simp [dropAnswer, h]
@[simp] theorem dropAnswer_answers (s : State) : (dropAnswer s).answers = s.answers.tail := by
  cases h : s.answers <;> simp [dropAnswer, h]
@[simp] theorem dropAnswer_draws (s : State) :
    (dropAnswer s).draws = if s.answers = [] then s.draws + 1 else s.draws := by
  cases h : s.answers <;> simp [dropAnswer, h]

@[simp] theorem resetBlock_saddr (k : Nat) (s : State) : (resetBlock k s).saddr = State.reset.saddr := rfl
@[simp] theorem resetBlock_soff (k : Nat) (s : State) : (resetBlock k s).soff = State.reset.soff := rfl
@[simp] theorem resetBlock_state (k : Nat) (s : State) : (resetBlock k s).state = .unconfigured := rfl
@[simp] theorem resetBlock_bidx (k : Nat) (s : State) : (resetBlock k s).bidx = 0 := rfl
@[simp] theorem resetBlock_tx (k : Nat) (s : State) : (resetBlock k s).tx = none := rfl
@[simp] theorem resetBlock_pending (k : Nat) (s : State) : (resetBlock k s).pending = none := rfl
@[simp] theorem resetBlock_wire (k : Nat) (s : State) : (resetBlock k s).wire = deliveredPrefix k s := rfl
@[simp] theorem resetBlock_marks (k : Nat) (s : State) : (resetBlock k s).marks = deliveredMarks k s := rfl
@[simp] theorem resetBlock_results (k : Nat) (s : State) : (resetBlock k s).results = [] := rfl
@[simp] theorem resetBlock_inputs (k : Nat) (s : State) : (resetBlock k s).inputs = s.inputs := rfl
@[simp] theorem resetBlock_answers (k : Nat) (s : State) : (resetBlock k s).answers = s.answers := rfl
@[simp] theorem resetBlock_draws (k : Nat) (s : State) : (resetBlock k s).draws = s.draws := rfl

end Sys2Proof.Machine
end

