-- ==== Sys2Proof/Laws/Ops.lean ====
section
/-! SUPPORT. For each shared operation, what it can do, said once. -/

namespace Sys2Proof.Machine

/-! ### Predicates -/

theorem bandHi_iff (c : Int) : bandHi c = true ↔ 850 < c := by
  simp [bandHi, Config.highFloor]

theorem rawOffset_eq (c : Int) : rawOffset c = if 850 < c then c - 850 else c - 410 := by
  simp [rawOffset, bandHi, Config.highFloor, Config.lowFloor]

theorem addrOk_iff (a : Int) : addrOk a = true ↔ 0 ≤ a ∧ a ≤ 65535 := by
  simp only [addrOk, Bool.and_eq_true, decide_eq_true_eq]
  exact Iff.rfl

theorem offOk_iff (o : Int) : offOk o = true ↔ 0 ≤ o ∧ o ≤ 255 := by
  simp only [offOk, Bool.and_eq_true, decide_eq_true_eq]
  exact Iff.rfl

@[simp] theorem payloadFits_eq (p : List Byte) : payloadFits p = true := rfl

theorem busy_iff (s : State) : busy s = true ↔ s.tx.isSome = true ∨ s.state = .settling := by
  simp [busy]

theorem busy_eq_false_iff (s : State) : busy s = false ↔ s.tx = none ∧ s.state ≠ .settling := by
  cases h : s.tx <;> simp [busy, h]

theorem live_iff (s : State) : live s = true ↔ s.state = .open ∨ s.state = .settling := by
  simp [live]

theorem live_eq_false_iff (s : State) : live s = false ↔ s.state = .unconfigured ∨ s.state = .closed := by
  cases h : s.state <;> simp [live, h]

/-! ### Frames -/

@[simp] theorem headerBytes_length (h : Header) : (headerBytes h).length = 6 := rfl

theorem encodeFrame_some {a c : Int} {sa : Addr} {so : Off} {p f : List Byte}
    (h : encodeFrame a c sa so p = some f) :
    addrOk a = true ∧ offOk (rawOffset c) = true ∧ f = headerBytes (headerOf a c sa so) ++ p := by
  unfold encodeFrame at h
  split at h
  · rename_i hok
    simp only [Bool.and_eq_true] at hok
    exact ⟨hok.1, hok.2, (Option.some.inj h).symm⟩
  · cases h

theorem encodeFrame_length {a c : Int} {sa : Addr} {so : Off} {p f : List Byte}
    (h : encodeFrame a c sa so p = some f) : f.length = 6 + p.length := by
  obtain ⟨-, -, rfl⟩ := encodeFrame_some h
  simp

/-! ### The agents -/

/-- A transport's step appends some prefix of the frame as one write and starts the settle interval,
with OK only for the whole frame. -/
theorem transportStep_spec (f : List Byte) (s : State) :
    ∃ n st, n ≤ f.length ∧ (st = Status.ok ∧ n = f.length ∨ st = Status.transportWriteError) ∧
      transportStep f s = startSettle st (recordWrite f n (dropAnswer s)) := by
  unfold transportStep finishWrite
  split
  · exact ⟨f.length, .ok, le_rfl, .inl ⟨rfl, rfl⟩, rfl⟩
  · rename_i k _
    refine ⟨min k f.length, .transportWriteError, min_le_right _ _, .inr rfl, ?_⟩
    have hk : f.take (min k f.length) = f.take k := List.take_eq_take_iff.mpr (by simp)
    simp [afterFailedWrite, Config.settleAfterFailedWrite, recordWrite, hk]

/-- Everything an agent's step can be. -/
theorem agentStep_cases (s : State) :
    (∃ f, s.tx = some f ∧ agentStep s = transportStep f s) ∨
    (s.tx = none ∧ s.state = .settling ∧ agentStep s = timerStep s) ∨
    (busy s = false ∧ agentStep s = s) := by
  unfold agentStep
  cases h : s.tx with
  | some f => exact .inl ⟨f, rfl, rfl⟩
  | none =>
    by_cases hs : s.state = .settling
    · exact .inr (.inl ⟨rfl, hs, by simp [hs]⟩)
    · exact .inr (.inr ⟨by simp [busy, h, hs], by simp [hs]⟩)

/-- The timer's step opens the session and delivers the pending result, and changes nothing else. -/
theorem timerStep_some {s : State} {st : BitVec 3} (h : s.pending = some st) :
    timerStep s = { s with results := s.results ++ [⟨st, .nothing⟩], state := .open, pending := none } := by
  simp [timerStep, h, deliver]

theorem agentStep_inputs (s : State) : (agentStep s).inputs = s.inputs := by
  obtain ⟨f, -, h⟩ | ⟨-, -, h⟩ | ⟨-, h⟩ := agentStep_cases s
  · obtain ⟨n, st, -, -, ht⟩ := transportStep_spec f s
    simp [h, ht]
  · cases hp : s.pending <;> simp [h, timerStep, hp]
  · rw [h]

/-! ### The instructions -/

/-- Everything an instruction that goes on can have done. -/
theorem exec_cases {i : Instr} {s t : State} (h : exec i s = .next t) :
    (busy s = true ∧ cmdReady i s = false ∧ t = hold s) ∨
    (busy s = false ∧ t = ignoreOp s ∧ (i = .close ∧ live s = false ∨
      ∃ sa so tp, i = .construct sa so tp ∧ live s = true)) ∨
    (∃ sa so, i = .construct sa so true ∧ busy s = false ∧ live s = false ∧
      t = returnOk .nothing (openSession sa so s)) ∨
    (i = .close ∧ busy s = false ∧ live s = true ∧ t = returnOk .nothing (closeSession s)) ∨
    (∃ a c p f, i = .send a c p ∧ busy s = false ∧ live s = true ∧
      encodeFrame a c s.saddr s.soff p = some f ∧ t = startWrite f s) ∨
    (∃ d, t = returnOk d s ∧ ((∃ a c sa so p, i = .encode a c sa so p) ∨ ∃ f, i = .decode f)) ∨
    (∃ e, t = raiseError e s ∧ cmdReady i s = true) := by
  cases i with
  | construct sa so tp =>
    simp only [exec, execConstruct] at h
    split at h
    · rename_i hb
      exact .inl ⟨hb, by simp [cmdReady, hb], (Host.Outcome.next.inj h).symm⟩
    · rename_i hb
      simp only [Bool.not_eq_true] at hb
      split at h
      · rename_i hl
        exact .inr (.inl ⟨hb, (Host.Outcome.next.inj h).symm, .inr ⟨sa, so, tp, rfl, hl⟩⟩)
      · rename_i hl
        simp only [Bool.not_eq_true] at hl
        split at h
        · rename_i htp
          subst htp
          exact .inr (.inr (.inl ⟨sa, so, rfl, hb, hl, (Host.Outcome.next.inj h).symm⟩))
        · exact .inr (.inr (.inr (.inr (.inr (.inr
            ⟨_, (Host.Outcome.next.inj h).symm, by simp [cmdReady, hb]⟩)))))
  | encode a c sa so p =>
    simp only [exec, execEncode, payloadFits_eq, if_true] at h
    split at h
    · exact .inr (.inr (.inr (.inr (.inr (.inl
        ⟨_, (Host.Outcome.next.inj h).symm, .inl ⟨a, c, sa, so, p, rfl⟩⟩)))))
    · exact .inr (.inr (.inr (.inr (.inr (.inr ⟨_, (Host.Outcome.next.inj h).symm, rfl⟩)))))
  | decode f =>
    simp only [exec, execDecode] at h
    split at h
    · exact .inr (.inr (.inr (.inr (.inr (.inl ⟨_, (Host.Outcome.next.inj h).symm, .inr ⟨f, rfl⟩⟩)))))
    · exact .inr (.inr (.inr (.inr (.inr (.inr ⟨_, (Host.Outcome.next.inj h).symm, rfl⟩)))))
  | send a c p =>
    simp only [exec, execSend, payloadFits_eq, if_true] at h
    split at h
    · rename_i hb
      exact .inl ⟨hb, by simp [cmdReady, hb], (Host.Outcome.next.inj h).symm⟩
    · rename_i hb
      simp only [Bool.not_eq_true] at hb
      cases hl : live s with
      | true =>
        simp only [hl, if_true] at h
        split at h
        · rename_i f hf
          exact .inr (.inr (.inr (.inr (.inl ⟨a, c, p, f, rfl, hb, rfl, hf, (Host.Outcome.next.inj h).symm⟩))))
        · exact .inr (.inr (.inr (.inr (.inr (.inr
            ⟨_, (Host.Outcome.next.inj h).symm, by simp [cmdReady, hb]⟩)))))
      | false =>
        simp only [hl, Bool.false_eq_true, if_false] at h
        exact .inr (.inr (.inr (.inr (.inr (.inr
          ⟨_, (Host.Outcome.next.inj h).symm, by simp [cmdReady, hb]⟩)))))
  | close =>
    simp only [exec, execClose] at h
    split at h
    · rename_i hb
      exact .inl ⟨hb, by simp [cmdReady, hb], (Host.Outcome.next.inj h).symm⟩
    · rename_i hb
      simp only [Bool.not_eq_true] at hb
      split at h
      · rename_i hl
        exact .inr (.inr (.inr (.inl ⟨rfl, hb, hl, (Host.Outcome.next.inj h).symm⟩)))
      · rename_i hl
        simp only [Bool.not_eq_true] at hl
        exact .inr (.inl ⟨hb, (Host.Outcome.next.inj h).symm, .inl ⟨rfl, hl⟩⟩)
  | frameHeader hd => cases h

end Sys2Proof.Machine
end

