-- ==== Sys2Proof/Laws/PerInstr.lean ====
section
/-! SUPPORT. A fact about every instruction as syntax: what the decoder yields is well-formed. -/

namespace Sys2Proof.Laws.DecodeWf

/-- Whatever presents `i` at the inputs, `i` is well-formed: its operands come from ports that can carry them. -/
def Statement (i : Instr) : Prop := ∀ x, decode x = .ok i → i.wf = true

theorem fitsPort_toInt (v : BitVec Config.inW) : fitsPort v.toInt = true := by
  have h1 := BitVec.le_toInt v
  have h2 := BitVec.toInt_lt (x := v)
  simp only [fitsPort, Bool.and_eq_true, decide_eq_true_eq]
  exact ⟨h1, h2⟩

theorem construct (sa : Addr) (so : Off) (tp : Bool) : Statement (.construct sa so tp) := fun _ _ => rfl

theorem decode (f : List Byte) : Statement (.decode f) := fun _ _ => rfl

theorem close : Statement .close := fun _ _ => rfl

theorem frameHeader (h : Header) : Statement (.frameHeader h) := fun _ _ => rfl

/-- The decoder takes integer operands from ports only. -/
theorem of_decode {x : Input} {i : Instr} (h : Sys2Proof.decode x = .ok i) : i.wf = true := by
  cases x with
  | command c =>
    simp only [Sys2Proof.decode, decodeCommand] at h
    repeat' split at h
    all_goals first
      | (cases h; done)
      | (cases h; rfl)
      | (cases h; simp [Instr.wf, fitsPort_toInt])
  | line t =>
    simp only [Sys2Proof.decode] at h
    split at h
    · cases h; simp [Instr.wf, fitsPort_toInt]
    · cases h
  | frame f =>
    simp only [Sys2Proof.decode] at h
    split at h
    · cases h; rfl
    · cases h
  | idle => cases h
  | reset k => cases h

theorem encode (a c : Int) (sa : Addr) (so : Off) (p : List Byte) : Statement (.encode a c sa so p) :=
  fun _ h => of_decode h

theorem send (a c : Int) (p : List Byte) : Statement (.send a c p) := fun _ h => of_decode h

end Sys2Proof.Laws.DecodeWf
end

