-- ==== Sys2Proof/Laws/Word.lean ====
section
/-! SUPPORT. Bytes and fields as numbers, saturation, and the splitting of a line. -/

namespace Sys2Proof

theorem toNat_hiByte (v : Addr) : (hiByte v).toNat = v.toNat / 256 := by
  have := v.isLt
  simp only [hiByte, BitVec.extractLsb'_toNat, Nat.shiftRight_eq_div_pow]
  omega

theorem toNat_loByte (v : Addr) : (loByte v).toNat = v.toNat % 256 := by
  simp [loByte, BitVec.extractLsb'_toNat]

theorem toNat_joinBytes (h l : Byte) : (joinBytes h l).toNat = 256 * h.toNat + l.toNat := by
  have hl := l.isLt
  simp only [joinBytes, BitVec.toNat_append]
  rw [← Nat.shiftLeft_add_eq_or_of_lt hl, Nat.shiftLeft_eq]
  omega

theorem toNat_ofInt_addr {a : Int} (h0 : 0 ≤ a) (h1 : a ≤ 65535) : (BitVec.ofInt 16 a).toNat = a.toNat := by
  simp only [BitVec.toNat_ofInt]
  omega

theorem toNat_ofInt_off {o : Int} (h0 : 0 ≤ o) (h1 : o ≤ 255) : (BitVec.ofInt 8 o).toNat = o.toNat := by
  simp only [BitVec.toNat_ofInt]
  omega

/-- Everything a saturated operand can be (D1). -/
theorem saturate_cases (v : Int) :
    (saturate v).toInt = v ∨ (v < -2147483648 ∧ (saturate v).toInt = -2147483648) ∨
      (v > 2147483647 ∧ (saturate v).toInt = 2147483647) := by
  have e : (2 ^ (Config.inW - 1) : Int) = 2147483648 := by decide
  unfold saturate
  rw [e]
  by_cases h1 : v < -2147483648
  · rw [if_pos h1]
    exact .inr (.inl ⟨h1, by decide⟩)
  · rw [if_neg h1]
    by_cases h2 : v < 2147483648
    · rw [if_pos h2]
      exact .inl (BitVec.toInt_ofInt_eq_self (by decide) (not_lt.mp h1) h2)
    · rw [if_neg h2]
      exact .inr (.inr ⟨by omega, by decide⟩)

theorem splitComma_append {d : List Char} (r : List Char) (h : ',' ∉ d) : splitComma (d ++ ',' :: r) = some (d, r) := by
  induction d with
  | nil => simp [splitComma]
  | cons c d ih =>
    simp only [List.mem_cons, not_or] at h
    simp [splitComma, ih h.2, Ne.symm h.1]

theorem splitComma_none {t : List Char} (h : ',' ∉ t) : splitComma t = none := by
  induction t with
  | nil => rfl
  | cons c t ih =>
    simp only [List.mem_cons, not_or] at h
    simp [splitComma, ih h.2, Ne.symm h.1]

end Sys2Proof
end

