-- ==== Sys2Proof/Laws/Step.lean ====
section
/-! SUPPORT. Everything one step can do, said once. -/

namespace Sys2Proof.Machine

/-- The decoder answers `noOperation` for an idle caller only. -/
theorem decode_noOperation {x : Input} (h : decode x = .error .noOperation) : x = .idle := by
  cases x with
  | idle => rfl
  | reset k => cases h
  | command c =>
    simp only [decode, decodeCommand] at h
    repeat' split at h
    all_goals cases h
  | line t => simp only [decode] at h; split at h <;> cases h
  | frame f => simp only [decode] at h; split at h <;> cases h

/-- The decoder answers `resetSampled` for the reset pin only. -/
theorem decode_resetSampled {x : Input} {k : Nat} (h : decode x = .error (.resetSampled k)) : x = .reset k := by
  cases x with
  | idle => cases h
  | reset k => cases h; rfl
  | command c =>
    simp only [decode, decodeCommand] at h
    repeat' split at h
    all_goals cases h
  | line t => simp only [decode] at h; split at h <;> cases h
  | frame f => simp only [decode] at h; split at h <;> cases h

/-- How a step that goes on came about. -/
theorem step_cases {s t : State} (h : step s = .next t) :
    (s.inputs = [] ∧ t = agentStep s) ∨
    ∃ x xs, s.inputs = x :: xs ∧
      ((∃ i, decode x = .ok i ∧ exec i s = .next t) ∨
       (x = .idle ∧ t = agentStep (accept s)) ∨
       (∃ k, x = .reset k ∧ t = resetBlock k (accept s)) ∨
       (∃ op, decode x = .error (.reservedOp op) ∧ t = ignoreOp s) ∨
       (decode x = .error .inputUnfinished ∧ t = agentStep s) ∨
       (decode x = .error .malformedLine ∧ t = accept s)) := by
  unfold step at h
  split at h
  · rename_i hi
    exact .inl ⟨hi, (Host.Outcome.next.inj h).symm⟩
  · rename_i x xs hi
    refine .inr ⟨x, xs, hi, ?_⟩
    split at h
    · rename_i i hd
      exact .inl ⟨i, hd, h⟩
    · rename_i e hd
      cases e with
      | noOperation => exact .inr (.inl ⟨decode_noOperation hd, (Host.Outcome.next.inj h).symm⟩)
      | resetSampled k => exact .inr (.inr (.inl ⟨k, decode_resetSampled hd, (Host.Outcome.next.inj h).symm⟩))
      | reservedOp op => exact .inr (.inr (.inr (.inl ⟨op, hd, (Host.Outcome.next.inj h).symm⟩)))
      | inputUnfinished => exact .inr (.inr (.inr (.inr (.inl ⟨hd, (Host.Outcome.next.inj h).symm⟩))))
      | malformedLine => exact .inr (.inr (.inr (.inr (.inr ⟨hd, (Host.Outcome.next.inj h).symm⟩))))
      | truncatedFrame => cases h

/-- What a step did to the state, by kind of effect: a claim about all steps is a case analysis of this. -/
inductive StepEffect (s t : State) : Prop
  /-- A result or nothing: registers, WIRE and work in flight are as they were. -/
  | result (h : t = accept s ∨ t = ignoreOp s ∨ (∃ d, t = returnOk d s) ∨ ∃ e, t = raiseError e s)
  /-- An agent's step, with or without an idle entry taken. -/
  | agent (u : State) (hu : u = s ∨ u = accept s) (h : t = agentStep u)
  | opened (x : Input) (xs : List Input) (hx : s.inputs = x :: xs) (sa : Addr) (so : Off)
      (hd : decode x = .ok (.construct sa so true)) (hb : busy s = false) (hl : live s = false)
      (h : t = returnOk .nothing (openSession sa so s))
  | closed (x : Input) (xs : List Input) (hx : s.inputs = x :: xs) (hd : decode x = .ok .close) (hb : busy s = false)
      (hl : live s = true) (h : t = returnOk .nothing (closeSession s))
  | started (x : Input) (xs : List Input) (hx : s.inputs = x :: xs) (a c : Int) (p f : List Byte)
      (hd : decode x = .ok (.send a c p)) (hb : busy s = false) (hl : live s = true)
      (hf : encodeFrame a c s.saddr s.soff p = some f) (h : t = startWrite f s)
  | reset (k : Nat) (xs : List Input) (hx : s.inputs = .reset k :: xs) (h : t = resetBlock k (accept s))

theorem step_effect {s t : State} (h : step s = .next t) : StepEffect s t := by
  obtain ⟨-, rfl⟩ | ⟨x, xs, hx, h⟩ := step_cases h
  · exact .agent s (.inl rfl) rfl
  · rcases h with ⟨i, hd, h⟩ | ⟨-, h⟩ | ⟨k, rfl, h⟩ | ⟨op, -, h⟩ | ⟨-, h⟩ | ⟨-, h⟩
    · rcases exec_cases h with ⟨-, -, h⟩ | ⟨-, h, -⟩ | ⟨sa, so, rfl, hb, hl, h⟩ | ⟨rfl, hb, hl, h⟩ |
        ⟨a, c, p, f, rfl, hb, hl, hf, h⟩ | ⟨d, h, -⟩ | ⟨e, h, -⟩
      · exact .agent s (.inl rfl) h
      · exact .result (.inr (.inl h))
      · exact .opened x xs hx sa so hd hb hl h
      · exact .closed x xs hx hd hb hl h
      · exact .started x xs hx a c p f hd hb hl hf h
      · exact .result (.inr (.inr (.inl ⟨d, h⟩)))
      · exact .result (.inr (.inr (.inr ⟨e, h⟩)))
    · exact .agent _ (.inr rfl) h
    · exact .reset k xs hx h
    · exact .result (.inr (.inl h))
    · exact .agent s (.inl rfl) h
    · exact .result (.inl h)

/-- An agent's step as updates of State. -/
theorem agentStep_effect (s : State) :
    (∃ f n st, s.tx = some f ∧ n ≤ f.length ∧ (st = Status.ok ∨ st = Status.transportWriteError) ∧
      agentStep s = startSettle st (recordWrite f n (dropAnswer s))) ∨
    (∃ st, s.tx = none ∧ s.state = .settling ∧ s.pending = some st ∧
      agentStep s = { s with results := s.results ++ [⟨st, .nothing⟩], state := .open, pending := none }) ∨
    (s.tx = none ∧ s.state = .settling ∧ s.pending = none ∧ agentStep s = { s with state := .open }) ∨
    (busy s = false ∧ agentStep s = s) := by
  obtain ⟨f, hf, h⟩ | ⟨h1, h2, h⟩ | ⟨h1, h⟩ := agentStep_cases s
  · obtain ⟨n, st, hn, hst, ht⟩ := transportStep_spec f s
    exact .inl ⟨f, n, st, hf, hn, hst.imp And.left id, h.trans ht⟩
  · cases hp : s.pending with
    | some st => exact .inr (.inl ⟨st, h1, h2, rfl, by rw [h, timerStep_some hp]⟩)
    | none => exact .inr (.inr (.inl ⟨h1, h2, rfl, by rw [h]; simp [timerStep, hp]⟩))
  · exact .inr (.inr (.inr ⟨h1, h⟩))

/-- An agent's step does not look at what is presented. -/
theorem agentStep_withInputs (s : State) (xs : List Input) :
    agentStep { s with inputs := xs } = { agentStep s with inputs := xs } := by
  cases ht : s.tx with
  | some f =>
    cases ha : s.answers with
    | nil =>
      cases hw : Config.freeAnswer s.draws <;>
        simp [agentStep, ht, transportStep, nextAnswer, dropAnswer, ha, hw, finishWrite, recordWrite, startSettle,
          afterFailedWrite, Config.settleAfterFailedWrite]
    | cons w ws =>
      cases w <;>
        simp [agentStep, ht, transportStep, nextAnswer, dropAnswer, ha, finishWrite, recordWrite, startSettle,
          afterFailedWrite, Config.settleAfterFailedWrite]
  | none =>
    by_cases hs : s.state = .settling
    · cases hp : s.pending <;> simp [agentStep, ht, hs, timerStep, hp, deliver]
    · simp [agentStep, ht, hs]

/-- A held operation is an agent's step. -/
theorem exec_hold {i : Instr} {s : State} (hi : sessionOp i = true) (hb : busy s = true) :
    exec i s = .next (agentStep s) := by
  cases i with
  | construct sa so tp => simp [exec, execConstruct, hb, hold]
  | send a c p => simp [exec, execSend, hb, hold]
  | close => simp [exec, execClose, hb, hold]
  | encode a c sa so p => simp [sessionOp] at hi
  | decode f => simp [sessionOp] at hi
  | frameHeader h => simp [sessionOp] at hi

/-- While a SEND has not returned and nothing goes before its agents, a step is the agent's step. -/
theorem step_waiting {s : State} (hb : busy s = true) (hw : headWaits s.inputs = true) :
    step s = .next { agentStep s with inputs := afterWait s.inputs } := by
  have hid : { agentStep s with inputs := s.inputs } = agentStep s := by
    rw [← agentStep_withInputs]
  cases hx : s.inputs with
  | nil =>
    rw [hx] at hid
    simp [step, hx, afterWait, hid]
  | cons x xs =>
    rw [hx] at hw hid
    simp only [headWaits, waits] at hw
    have hne : x ≠ .idle → afterWait (x :: xs) = x :: xs := fun h => by simp [afterWait, h]
    cases hd : decode x with
    | ok i =>
      rw [hd] at hw
      rw [hne (by rintro rfl; cases hd), hid]
      simp only [step, hx, hd]
      exact exec_hold hw hb
    | error e =>
      rw [hd] at hw
      cases e with
      | noOperation =>
        obtain rfl := decode_noOperation hd
        have ha : accept s = { s with inputs := xs } := by simp [accept, hx]
        simp [step, hx, hd, rejectInput, afterWait, ha, agentStep_withInputs]
      | inputUnfinished =>
        rw [hne (by rintro rfl; cases hd), hid]
        simp [step, hx, hd, rejectInput, hold]
      | resetSampled k => cases hw
      | reservedOp op => cases hw
      | malformedLine => cases hw
      | truncatedFrame => cases hw

/-- A run is its first steps and then the rest, on any machine. -/
theorem run_add (M : Host.Core) (m : Nat) : ∀ (n : Nat) {s t : M.State}, M.run n s = .next t →
    M.run (n + m) s = M.run m t := by
  intro n
  induction n with
  | zero =>
    intro s t h
    cases h
    rw [Nat.zero_add]
  | succ n ih =>
    intro s t h
    rw [Nat.succ_add]
    simp only [Host.Core.run] at h ⊢
    split at h
    · rename_i u hu
      exact ih h
    · cases h
    · cases h

/-- A mark at the end of WIRE keeps the marks' form (R31). -/
theorem marksTile_append (ms : List WriteMark) :
    ∀ a b n, marksTile a ms b = true → marksTile a (ms ++ [⟨b, b + n⟩]) (b + n) = true := by
  induction ms with
  | nil =>
    intro a b n h
    simpa [marksTile, eq_comm] using h
  | cons m ms ih =>
    intro a b n h
    simp only [marksTile, Bool.and_eq_true, List.cons_append] at h ⊢
    exact ⟨h.1, ih _ _ _ h.2⟩

/-- The invariant speaks of the block's registers, WIRE and work in flight only. -/
theorem Inv_of_same {s t : State} (h : Inv s) (h1 : t.saddr = s.saddr) (h2 : t.soff = s.soff) (h3 : t.state = s.state)
    (h4 : t.bidx = s.bidx) (h5 : t.tx = s.tx) (h6 : t.pending = s.pending) (h7 : t.wire = s.wire)
    (h8 : t.marks = s.marks) : Inv t := by
  obtain ⟨a, b, c, d, e, f⟩ := h
  constructor <;> simp only [*] <;> assumption

/-- R31, R211: the boundaries a reset leaves cut what it leaves on WIRE. -/
theorem delivered_tile (k : Nat) (s : State) :
    marksTile 0 (deliveredMarks k s) (deliveredPrefix k s).length = true := by
  cases h : s.tx <;> simp [deliveredMarks, deliveredPrefix, marksTile, h]

end Sys2Proof.Machine
end

