-- ==== Sys2Proof/Tests/Slice0.lean ====
section
/-! SUPPORT. Tests against the spec's own vectors, the well-formedness smoke tests, and a witness for each statement
with hypotheses. -/

namespace Sys2Proof.Tests

open Sys2Proof Sys2Proof.Machine

/-! ### Small states -/

/-- A live session with identity (5, 18), 95_test_vectors.md section 2.5. -/
def openState : State := launchInSession 5 18 [] []

def closedState : State := { openState with state := .closed }

/-- The write of T1's frame under way. -/
def writingState : State := { openState with tx := some [0x01, 0x2C, 0x17, 0x00, 0x05, 0x12] }

/-- After T1's write. -/
def settlingState : State :=
  { openState with
    state := .settling
    pending := some 0
    bidx := 6
    wire := [0x01, 0x2C, 0x17, 0x00, 0x05, 0x12]
    marks := [⟨0, 6⟩] }

def withInputs (s : State) (xs : List Input) : State := { s with inputs := xs }

def withAnswers (s : State) (ws : List WriteAnswer) : State := { s with answers := ws }

/-! ### Well-formedness: an ill-formed term for each check (D1) -/

theorem test_illformed_encode_a : (Instr.encode (2 ^ 31) 868 0 18 []).wf = false := by decide
theorem test_illformed_encode_c : (Instr.encode 10 (-(2 ^ 31) - 1) 0 18 []).wf = false := by decide
theorem test_illformed_send_a : (Instr.send (-(2 ^ 31) - 1) 868 []).wf = false := by decide
theorem test_illformed_send_c : (Instr.send 10 (2 ^ 31) []).wf = false := by decide
theorem test_wellformed_bounds : (Instr.send (-(2 ^ 31)) (2 ^ 31 - 1) []).wf = true := by decide
/-- D20: a finite `MAX_PAYLOAD` bounds the payload, the default does not. -/
theorem test_withinMax : withinMax (some 2) 3 = false ∧ withinMax (some 2) 2 = true ∧ withinMax none 3 = true := by
  decide

/-! ### Decoding: words written out from R34, R79, R80 and R72 -/

theorem test_decode_construct :
    decode (.command ⟨0b001#3, 1, 2, 0x1234, 0xFF, false, false, []⟩) = .ok (.construct 0x1234 0xFF false) := by
  decide
theorem test_decode_encode :
    decode (.command ⟨0b010#3, 0x00010000, 0xFFFFFFFF, 5, 18, true, true, []⟩) = .ok (.encode 65536 (-1) 5 18 []) := by
  decide
theorem test_decode_decode :
    decode (.command ⟨0b011#3, 1, 2, 3, 4, true, false, [⟨0x00, false⟩, ⟨0x0A, true⟩, ⟨0xFF, true⟩]⟩) =
      .ok (.decode [0x00, 0x0A]) := by decide
theorem test_decode_send :
    decode (.command ⟨0b100#3, 10, 868, 3, 4, false, false, [⟨0x68, false⟩, ⟨0x69, true⟩]⟩) =
      .ok (.send 10 868 [0x68, 0x69]) := by decide
theorem test_decode_close : decode (.command ⟨0b101#3, 1, 2, 3, 4, true, true, []⟩) = .ok .close := by decide
theorem test_decode_reserved :
    decode (.command ⟨0b000#3, 0, 0, 0, 0, false, true, []⟩) = .error (.reservedOp 0b000#3) ∧
    decode (.command ⟨0b110#3, 0, 0, 0, 0, false, true, []⟩) = .error (.reservedOp 0b110#3) ∧
    decode (.command ⟨0b111#3, 0, 0, 0, 0, false, true, []⟩) = .error (.reservedOp 0b111#3) := by decide
theorem test_decode_unfinished :
    decode (.command ⟨0b100#3, 10, 868, 3, 4, false, false, [⟨0x68, false⟩]⟩) = .error .inputUnfinished := by decide
/-- R72's pattern with S2's header. -/
theorem test_header_word : headerOfWord 0x012C17000512#48 = ⟨300, 23, 5, 18⟩ ∧
    headerWord ⟨300, 23, 5, 18⟩ = 0x012C17000512#48 := by decide
theorem test_decode_frame :
    decode (.frame [0x01, 0x2C, 0x17, 0x00, 0x05, 0x12]) = .ok (.frameHeader ⟨300, 23, 5, 18⟩) ∧
    decode (.frame [0x01, 0x2C, 0x17, 0x00, 0x05]) = .error .truncatedFrame := by decide
theorem test_table_words :
    decodeTableWord 8 1 = some (.construct 0 0 false) ∧ decodeTableWord 8 2 = some (.encode 0 0 0 0 []) ∧
    decodeTableWord 8 3 = some (.decode []) ∧ decodeTableWord 8 4 = some (.send 0 0 []) ∧
    decodeTableWord 8 5 = some .close ∧
    decodeTableWord 48 0x012C17000512 = some (.frameHeader ⟨300, 23, 5, 18⟩) ∧ decodeTableWord 8 6 = none := by decide

/-! ### LINE (R167) -/

theorem test_line_plain :
    parseLine ['1', '0', ',', '8', '6', '8', ',', 'h', 'i'] = some (10, 868, [0x68, 0x69]) := by decide
theorem test_line_third_comma :
    parseLine ['2', '5', '6', ',', '4', '2', '8', ',', 'a', ',', 'b'] = some (256, 428, [0x61, 0x2C, 0x62]) := by decide
theorem test_line_malformed :
    parseLine ['1', ',', '2'] = none ∧ parseLine ['x', ',', '8', '6', '8', ',', 'h', 'i'] = none ∧
    parseLine ['1', '0', ',', '8', '.', '5', ',', 'h', 'i'] = none ∧ parseLine [',', '8', '6', '8', ',', 'h'] = none := by
  decide
theorem test_line_spaces :
    parseLine [' ', '7', ' ', ',', ' ', '4', '3', '3', ' ', ',', ' ', 'o', 'k'] = some (7, 433, [0x20, 0x6F, 0x6B]) := by
  decide
theorem test_line_utf8 : parseLine ['1', ',', '9', '1', '5', ',', 'é'] = some (1, 915, [0xC3, 0xA9]) := by decide
theorem test_line_sign : parseLine ['-', '1', ',', '8', '6', '8', ','] = some (-1, 868, []) := by decide

/-! ### Instructions, at most two tests each -/

/-- K1. -/
theorem test_construct_opens :
    (after? (exec (.construct 0 18 true) State.reset)).map (fun t => (t.state, t.saddr, t.soff, t.results)) =
      some (.open, 0, 18, [⟨0, .nothing⟩]) := by decide
/-- K5. -/
theorem test_construct_absent :
    (after? (exec (.construct 9 23 false) closedState)).map (fun t => (t.state, t.saddr, t.soff, t.results)) =
      some (.closed, 5, 18, [⟨4, .nothing⟩]) := by decide
/-- E6. -/
theorem test_encode :
    encodeFrame 256 1000 255 254 [0x0A, 0x0D] = some [0x01, 0x00, 0x96, 0x00, 0xFF, 0xFE, 0x0A, 0x0D] := by decide
/-- S4, E13: no wrap, 850 is low band. -/
theorem test_encode_errors :
    (after? (exec (.encode 1 1200 0 18 [0x78]) State.reset)).map (·.results) = some [⟨1, .nothing⟩] ∧
    encodeFrame 1 850 0 18 [] = none := by decide
/-- X10. -/
theorem test_decode_op :
    (after? (exec (.decode [0x12, 0x34, 0x00, 0x56, 0x78, 0x9A, 0xDE, 0xAD, 0xBE, 0xEF]) State.reset)).map (·.results) =
      some [⟨0, .fields ⟨4660, 0, 22136, 154⟩ [0xDE, 0xAD, 0xBE, 0xEF]⟩] := by decide
/-- X3. -/
theorem test_decode_op_short :
    (after? (exec (.decode [0x00, 0x0A, 0x12, 0x00, 0x00]) State.reset)).map (·.results) = some [⟨2, .nothing⟩] := by
  decide
/-- T2, first arrow. -/
theorem test_send_starts :
    (after? (exec (.send 10 868 [0x68, 0x69]) openState)).map (·.tx) =
      some (some [0x00, 0x0A, 0x12, 0x00, 0x05, 0x12, 0x68, 0x69]) := by decide
/-- T8: SessionClosedError before EncodingError. -/
theorem test_send_closed :
    (after? (exec (.send 1 1200 []) closedState)).map (fun t => (t.results, t.wire, t.state)) =
      some ([⟨5, .nothing⟩], [], .closed) := by decide
/-- L1. -/
theorem test_close :
    (after? (exec .close openState)).map (fun t => (t.state, t.results)) = some (.closed, [⟨0, .nothing⟩]) := by decide
/-- L3: no operation. -/
theorem test_close_twice :
    (after? (exec .close closedState)).map (fun t => (t.state, t.saddr, t.wire)) = some (.closed, 5, []) := by decide
theorem test_frame_header : refusal? (exec (.frameHeader ⟨300, 23, 5, 18⟩) State.reset) = some .bareFrame := by decide

/-! ### The agents -/

/-- P4 with k = 3, the transport's step. -/
theorem test_transport_fails :
    (after? (step (withAnswers writingState [.fail 3]))).map (fun t => (t.wire, t.marks, t.state, t.pending)) =
      some ([0x01, 0x2C, 0x17], [⟨0, 3⟩], .settling, some 3) := by decide
/-- T1, the timer's step. -/
theorem test_timer :
    (after? (step settlingState)).map (fun t => (t.state, t.results)) = some (.open, [⟨0, .nothing⟩]) := by decide
/-- R211: reset in mid-write keeps the delivered prefix. -/
theorem test_reset_midwrite :
    (after? (step (withInputs writingState [.reset 2]))).map (fun t => (t.state, t.wire, t.results)) =
      some (.unconfigured, [0x01, 0x2C], []) := by decide
/-- R35, R31: after reset with no write under way WIRE is empty, with no boundaries. -/
theorem test_reset_clears_wire :
    (after? (step (withInputs settlingState [.reset 2]))).map (fun t => (t.state, t.wire, t.marks, t.pending)) =
      some (.unconfigured, [], [], none) := by decide
/-- The host's placing of a word: DECODE's code with an empty frame, run first after reset, returns DecodingError (X1). -/
theorem test_fetch_word :
    (after? (step (State.reset.withFetchWord 8 3))).map (fun t => (t.inputs, t.results)) =
      some ([], [⟨2, .nothing⟩]) := by decide

/-! ### Witnesses: the hypotheses of each statement can be met -/

theorem wit_EncodableChannelsExactly :
    ((1 : Int) ≤ 1 ∧ (1 : Int) ≤ 255) ∧ ((1 : Int) ≤ 255 ∧ (255 : Int) ≤ 255) ∧ rawOffset 411 = 1 ∧ rawOffset 851 = 1 ∧
      rawOffset 665 = 255 ∧ rawOffset 1105 = 255 := by decide
theorem wit_EncodeFrameLayout :
    (encodeFrame 65535 1105 65535 255 [0xFF]).isSome = true ∧ (encodeFrame 65536 1105 0 0 []).isNone = true ∧
      (encodeFrame (-1) 410 0 0 []).isNone = true ∧ (encodeFrame 0 409 0 0 []).isNone = true ∧
      (encodeFrame 0 666 0 0 []).isNone = true := by decide
theorem wit_MultiplexerEmitsTheFrame : muxByte ⟨300, 23, 5, 18⟩ [0x68] 6 = some 0x68 ∧
    muxByte ⟨300, 23, 5, 18⟩ [0x68] 7 = none := by decide
theorem wit_EncodeCompletes :
    ((0 : Int) ≤ 0 ∧ (0 : Int) ≤ 65535 ∧ ((410 : Int) ≤ 410 ∧ (410 : Int) ≤ 665)) ∧
      ¬ ((851 : Int) ≤ 850 ∨ (850 : Int) ≤ 665) := by decide
theorem wit_DecodeCompletes : ([0, 0, 0, 0, 0] : List Byte).length < 6 ∧ ¬ ([0, 0, 0, 0, 0, 0] : List Byte).length < 6 := by
  decide
theorem wit_CodecResultsIgnoreState : codecOp (.encode 0 410 0 0 []) = true ∧ codecOp (.decode []) = true := by decide
theorem wit_CodecRoundTrip : addrOk 65535 = true ∧ offOk (rawOffset 1105) = true ∧ addrOk 0 = true ∧
    offOk (rawOffset 410) = true := by decide
theorem wit_ReassemblyRestoresFrame : 6 ≤ ([0, 0, 0, 0, 0, 0] : List Byte).length ∧
    rawOffset 410 = ((⟨0, 0, 0, 0⟩ : Header).dOff.toNat : Int) ∧ 1 ≤ (⟨0, 1, 0, 0⟩ : Header).dOff.toNat := by decide
theorem wit_StreamCarriesTheSequence : ([0x68] : List Byte) ≠ [] ∧ beatsOf [0x68, 0x69] = [⟨0x68, false⟩, ⟨0x69, true⟩] := by
  decide
theorem wit_DecodeEncodeAgree :
    (Instr.construct 65535 255 true).wf = true ∧ (Instr.encode (2 ^ 31 - 1) (-(2 ^ 31)) 0 0 [0]).wf = true ∧
      (Instr.decode [0]).wf = true ∧ (Instr.send 10 868 []).wf = true ∧ Instr.close.wf = true ∧
      (Instr.frameHeader ⟨0, 0, 0, 0⟩).wf = true := by decide
theorem wit_ReservedCodesChangeNothing :
    (blankCommand 0b110#3 []).op = 0b110#3 ∧
      (withInputs openState [.command (blankCommand 0b110#3 [])]).inputs = [.command (blankCommand 0b110#3 [])] ∧
      (blankCommand 0b000#3 []).op = 0b000#3 ∧ (blankCommand 0b111#3 []).op = 0b111#3 := by decide
theorem wit_StepRunsTheDecodedInstruction :
    (withInputs openState [encode .close]).inputs = [encode .close] ∧ decode (encode .close) = .ok .close := by decide
theorem wit_ConstructOpensSession :
    (State.reset.tx = none ∧ State.reset.state = .unconfigured) ∧ closedState.tx = none ∧ closedState.state = .closed := by
  decide
theorem wit_ConstructWithoutTransport :
    (State.reset.tx = none ∧ State.reset.state = .unconfigured) ∧ closedState.tx = none ∧ closedState.state = .closed := by
  decide
theorem wit_ConstructOnLiveSessionIgnored : openState.tx = none ∧ openState.state = .open := by decide
theorem wit_SendHandsTheFrameOver :
    openState.tx = none ∧ openState.state = .open ∧ (0 : Int) ≤ 65535 ∧ (65535 : Int) ≤ 65535 ∧
      ((851 : Int) ≤ 1105 ∧ (1105 : Int) ≤ 1105) := by decide
theorem wit_SendRaisesEncodingError :
    openState.tx = none ∧ openState.state = .open ∧
      ¬ ((0 : Int) ≤ 1 ∧ (1 : Int) ≤ 65535 ∧ (((410 : Int) ≤ 850 ∧ (850 : Int) ≤ 665) ∨
        ((851 : Int) ≤ 850 ∧ (850 : Int) ≤ 1105))) := by decide
theorem wit_SendWithoutSession :
    (State.reset.tx = none ∧ State.reset.state = .unconfigured) ∧ closedState.tx = none ∧ closedState.state = .closed := by
  decide
/-- A SEND of which one payload byte has come and none is marked last (log 14). -/
def unfinishedSend : Command := ⟨0b100#3, 10, 868, 3, 4, false, false, [⟨0x68, false⟩]⟩

/-- What may be presented while an agent moves: nothing, an idle entry, a held operation or line, an unfinished
command; and what may not. -/
theorem wit_headWaits :
    headWaits [] = true ∧ headWaits [.idle, .reset 0] = true ∧ headWaits [encode .close] = true ∧
      headWaits [.line ['1', ',', '9', ',']] = true ∧ headWaits [.command unfinishedSend] = true ∧
      headWaits [encode (.decode [])] = false ∧ headWaits [.reset 0] = false ∧
      headWaits [.line ['1', ',', '2']] = false ∧ headWaits [.frame []] = false ∧
      headWaits [.command (blankCommand 0b110#3 [])] = false := by decide
theorem wit_TransportAcceptsTheWrite :
    headWaits (withAnswers (withInputs writingState [.idle]) [.ok]).inputs = true ∧
      (withAnswers (withInputs writingState [.idle]) [.ok]).tx = some [0x01, 0x2C, 0x17, 0x00, 0x05, 0x12] ∧
      (withAnswers (withInputs writingState [.idle]) [.ok]).answers = [.ok] := by decide
theorem wit_TransportFailsAfterAnyPrefix :
    6 ≤ ([0x01, 0x2C, 0x17, 0x00, 0x05, 0x12] : List Byte).length ∧
      headWaits (withAnswers (withInputs writingState [encode .close]) [.fail 6]).inputs = true ∧
      (withAnswers (withInputs writingState [encode .close]) [.fail 6]).tx =
        some [0x01, 0x2C, 0x17, 0x00, 0x05, 0x12] ∧
      (withAnswers (withInputs writingState [encode .close]) [.fail 6]).answers = [.fail 6] := by decide
theorem wit_FreeAnswerIsOneOfTheTwo :
    headWaits writingState.inputs = true ∧ writingState.tx = some [0x01, 0x2C, 0x17, 0x00, 0x05, 0x12] ∧
      writingState.answers = [] := by decide
theorem wit_TimerStepReturnsTheSend :
    headWaits (withInputs settlingState [.idle]).inputs = true ∧ (withInputs settlingState [.idle]).tx = none ∧
      (withInputs settlingState [.idle]).state = .settling ∧ (withInputs settlingState [.idle]).pending = some 0 := by
  decide
theorem wit_IdleAndUnfinishedLetTheAgentMove :
    ((withInputs openState [.idle]).inputs = [.idle] ∧ busy (withInputs openState [.idle]) = false) ∧
      (withInputs openState [.command unfinishedSend]).inputs = [.command unfinishedSend] ∧
      unfinishedSend.op = 0b100#3 ∧ unfinishedSend.empty = false ∧ (∀ b ∈ unfinishedSend.beats, b.last = false) ∧
      busy (withInputs openState [.command unfinishedSend]) = false := by decide

/-- T2 presented, with the transport's answer listed. -/
def sendState (w : WriteAnswer) : State :=
  withAnswers (withInputs openState [encode (.send 10 868 [0x68, 0x69])]) [w]

theorem wit_SendRunsToItsReturn :
    (sendState (.fail 8)).tx = none ∧ (sendState (.fail 8)).state = .open ∧
      (sendState (.fail 8)).inputs = [encode (.send 10 868 [0x68, 0x69])] ∧
      decode (encode (.send 10 868 [0x68, 0x69])) = .ok (.send 10 868 [0x68, 0x69]) ∧
      encodeFrame 10 868 (sendState (.fail 8)).saddr (sendState (.fail 8)).soff [0x68, 0x69] =
        some [0x00, 0x0A, 0x12, 0x00, 0x05, 0x12, 0x68, 0x69] ∧
      (sendState (.fail 8)).answers = [.fail 8] ∧ (sendState .ok).answers = [.ok] ∧
      (headWaits [] = true ∧ headWaits (afterWait []) = true) ∧
      (headWaits [.idle, encode .close] = true ∧ headWaits (afterWait [.idle, encode .close]) = true ∧
        afterWait (afterWait [.idle, encode .close]) = [encode .close]) := by decide

/-- Two SENDs of a session, the first failing after three bytes (P4), and a CLOSE after them. -/
def twoSends : List IssuedSend :=
  [⟨encode (.send 10 868 [0x68, 0x69]), [0x00, 0x0A, 0x12, 0x00, 0x05, 0x12, 0x68, 0x69], .fail 3⟩,
   ⟨encode (.send 300 433 []), [0x01, 0x2C, 0x17, 0x00, 0x05, 0x12], .ok⟩]

def twoSendsState : State :=
  withAnswers (withInputs openState (twoSends.map (·.input) ++ [encode .close])) (twoSends.map (·.answer) ++ [])

theorem wit_SendsReachWireInOrder :
    twoSendsState.tx = none ∧ twoSendsState.state = .open ∧
      twoSendsState.inputs = twoSends.map (·.input) ++ [encode .close] ∧
      twoSendsState.answers = twoSends.map (·.answer) ++ [] ∧
      (∀ e ∈ twoSends, ∃ a c p, decode e.input = .ok (.send a c p) ∧
        encodeFrame a c twoSendsState.saddr twoSendsState.soff p = some e.frame) ∧
      (∀ y, [encode .close].head? = some y → ∃ i, decode y = .ok i ∧ sessionOp i = true) := by
  refine ⟨rfl, rfl, rfl, rfl, fun e he => ?_, fun y hy => ?_⟩
  · rcases List.mem_cons.mp he with rfl | he
    · exact ⟨10, 868, [0x68, 0x69], by decide, by decide⟩
    · obtain rfl := List.mem_singleton.mp he
      exact ⟨300, 433, [], by decide, by decide⟩
  · cases hy
    exact ⟨.close, by decide, rfl⟩
theorem wit_SettlingHoldsSessionOperations :
    sessionOp .close = true ∧ sessionOp (.send 300 433 []) = true ∧ sessionOp (.construct 5 18 true) = true ∧
      (withInputs settlingState [encode .close]).inputs = [encode .close] ∧ decode (encode .close) = .ok .close ∧
      decode (encode (.send 300 433 [])) = .ok (.send 300 433 []) ∧
      decode (encode (.construct 5 18 true)) = .ok (.construct 5 18 true) ∧
      settlingState.tx = none ∧ settlingState.state = .settling ∧ settlingState.pending = some 0 := by decide
theorem wit_WriteHoldsSessionOperations :
    sessionOp .close = true ∧ writingState.tx = some [0x01, 0x2C, 0x17, 0x00, 0x05, 0x12] ∧ writingState.answers = [] ∧
      (withAnswers writingState [.fail 0]).tx = some [0x01, 0x2C, 0x17, 0x00, 0x05, 0x12] ∧
      (withAnswers writingState [.fail 0]).answers = [.fail 0] := by decide
theorem wit_CloseEndsSession : openState.tx = none ∧ openState.state = .open := by decide
theorem wit_CloseOutsideSessionIgnored :
    (State.reset.tx = none ∧ State.reset.state = .unconfigured) ∧ closedState.tx = none ∧ closedState.state = .closed := by
  decide

theorem inv_settlingState : Inv settlingState :=
  ⟨(fun h => nomatch h), by decide, (fun st h => by cases h; exact .inl rfl), by decide, (fun f h => nomatch h), (fun h => nomatch h)⟩

theorem inv_writingState : Inv writingState :=
  ⟨fun _ => rfl, by decide, (fun st h => nomatch h), by decide, (fun f h => by cases h; decide), fun _ => rfl⟩

theorem inv_openState (xs : List Input) : Inv (withInputs openState xs) :=
  ⟨(fun h => nomatch h), ⟨(fun h => nomatch h), (fun h => nomatch h)⟩, (fun st h => nomatch h), (by decide : marksTile 0 [] 0 = true),
    (fun f h => nomatch h), (fun h => nomatch h)⟩

theorem wit_StateMovesOnlyByTheTable :
    Inv (withInputs openState [encode .close]) ∧
      step (withInputs openState [encode .close]) = .next (returnOk .nothing (closeSession (withInputs openState [encode .close]))) ∧
      ∀ k, (withInputs openState [encode .close]).inputs.head? ≠ some (.reset k) :=
  ⟨inv_openState _, rfl, (fun _ h => nomatch h)⟩
theorem wit_StateMovesOnlyByTheTable_timer :
    Inv settlingState ∧ step settlingState = .next (timerStep settlingState) ∧
      ∀ k, settlingState.inputs.head? ≠ some (.reset k) := ⟨inv_settlingState, rfl, (fun _ h => nomatch h)⟩
theorem wit_StateMovesOnlyByTheTable_write :
    Inv writingState ∧ step writingState = .next (agentStep writingState) ∧
      ∀ k, writingState.inputs.head? ≠ some (.reset k) := ⟨inv_writingState, rfl, (fun _ h => nomatch h)⟩
theorem wit_IdentityWrittenByConstructOnly :
    step (withInputs State.reset [encode (.construct 5 18 true)]) =
        .next (returnOk .nothing (openSession 5 18 (withInputs State.reset [encode (.construct 5 18 true)]))) ∧
      (∀ k, (withInputs State.reset [encode (.construct 5 18 true)]).inputs.head? ≠ some (.reset k)) ∧
      step openState = .next openState ∧ ∀ k, openState.inputs.head? ≠ some (.reset k) :=
  ⟨rfl, (fun _ h => nomatch h), rfl, (fun _ h => nomatch h)⟩
theorem wit_WireOnlyGrowsByTheFrameUnderWay :
    step (withAnswers writingState [.ok]) =
        .next (transportStep [0x01, 0x2C, 0x17, 0x00, 0x05, 0x12] (withAnswers writingState [.ok])) ∧
      ∀ k, (withAnswers writingState [.ok]).inputs.head? ≠ some (.reset k) := ⟨rfl, fun _ h => nomatch h⟩
theorem wit_WriteStartsOnlyFromSend :
    step (sendState .ok) = .next (startWrite [0x00, 0x0A, 0x12, 0x00, 0x05, 0x12, 0x68, 0x69] (sendState .ok)) ∧
      (sendState .ok).tx = none ∧
      (startWrite [0x00, 0x0A, 0x12, 0x00, 0x05, 0x12, 0x68, 0x69] (sendState .ok)).tx =
        some [0x00, 0x0A, 0x12, 0x00, 0x05, 0x12, 0x68, 0x69] := ⟨rfl, rfl, rfl⟩
theorem wit_StepKeepsInv : Inv settlingState ∧ step settlingState = .next (timerStep settlingState) :=
  ⟨inv_settlingState, rfl⟩
theorem wit_InvHoldsAtLaunch : marksTile 0 [⟨0, 6⟩, ⟨6, 6⟩, ⟨6, 9⟩] ([0, 0, 0, 0, 0, 0, 0, 0, 0] : List Byte).length = true := by
  decide
theorem wit_OnlyBareFramesAreRefused : step (withInputs openState [.frame []]) = .refused .bareFrame := rfl
theorem wit_AtMostOneResultPerStep :
    step settlingState = .next (timerStep settlingState) ∧ ∀ k, settlingState.inputs.head? ≠ some (.reset k) :=
  ⟨rfl, fun _ h => nomatch h⟩
theorem wit_IdentityUnreadOutsideSession :
    (live (withInputs State.reset [encode (.send 1 433 [])]) = false ∧
      (withInputs State.reset [encode (.send 1 433 [])]).tx = none) ∧
    (live (withInputs closedState [encode (.construct 9 23 true)]) = false ∧
      (withInputs closedState [encode (.construct 9 23 true)]).tx = none) ∧
    (live (withInputs State.reset [.frame []]) = false ∧ (withInputs State.reset [.frame []]).tx = none) := by decide
theorem wit_StatusesByOperation :
    exec (.send 1 1200 []) openState = .next (raiseError .encodingError openState) ∧
      cmdReady (.send 1 1200 []) openState = true ∧
      (raiseError .encodingError openState).results = openState.results ++ [⟨1, .nothing⟩] := ⟨rfl, rfl, rfl⟩
theorem wit_StatusesByOperation_others :
    (exec (.decode []) openState = .next (raiseError .decodingError openState) ∧ cmdReady (.decode []) openState = true) ∧
    (exec (.encode 0 0 0 0 []) openState = .next (raiseError .encodingError openState) ∧
      cmdReady (.encode 0 0 0 0 []) openState = true) ∧
    (exec (.construct 5 18 false) State.reset = .next (raiseError .transportOpenError State.reset) ∧
      cmdReady (.construct 5 18 false) State.reset = true) ∧
    (exec .close openState = .next (returnOk .nothing (closeSession openState)) ∧ cmdReady .close openState = true) :=
  ⟨⟨rfl, rfl⟩, ⟨rfl, rfl⟩, ⟨rfl, rfl⟩, rfl, rfl⟩
theorem wit_ReadyMeansTaken :
    (exec .close openState = .next (returnOk .nothing (closeSession openState)) ∧ cmdReady .close openState = true) ∧
      exec .close settlingState = .next (timerStep settlingState) ∧ cmdReady .close settlingState = false :=
  ⟨⟨rfl, rfl⟩, rfl, rfl⟩
theorem wit_UnreturnedSendReturns :
    (Inv writingState ∧ busy writingState = true ∧ headWaits writingState.inputs = true ∧
      headWaits (afterWait writingState.inputs) = true) ∧
      Inv settlingState ∧ busy settlingState = true ∧ headWaits settlingState.inputs = true ∧
        headWaits (afterWait settlingState.inputs) = true :=
  ⟨⟨inv_writingState, rfl, rfl, rfl⟩, inv_settlingState, rfl, rfl, rfl⟩
theorem wit_ResetAbandonsTheOperation :
    (withInputs writingState [.reset 6]).inputs = [.reset 6] ∧ (withInputs openState [.reset 0]).tx = none ∧
      (withInputs writingState [.reset 6]).tx = some [0x01, 0x2C, 0x17, 0x00, 0x05, 0x12] := by decide
theorem wit_LineSplitsAtTwoCommas : ',' ∉ ['1'] ∧ ',' ∉ ([] : List Char) ∧ (['1', ',', '2'] : List Char).count ',' < 2 := by
  decide
theorem wit_LineIntegerSyntax : intVal [' ', '-', '0', '7', ' '] = some (-7) := by decide
theorem wit_LinePerformsItsSend :
    (withInputs openState [.line ['1', ',', '2']]).inputs = [.line ['1', ',', '2']] ∧ parseLine ['1', ',', '2'] = none ∧
      (withInputs openState [.line ['1', ',', '9', ',']]).inputs = [.line ['1', ',', '9', ',']] ∧
      parseLine ['1', ',', '9', ','] = some (1, 9, []) := by decide

end Sys2Proof.Tests
end

section
/-! SUPPORT. What a step comes to: an agent's move where nothing is taken, and which inputs it refuses. Settles
O31, O47 and O18. -/

namespace Sys2Proof.Proofs

open Sys2Proof.Machine

/-! ### A step by what the first input decodes to -/

theorem step_of_decode_ok {s : State} {x : Input} {xs : List Input} {i : Instr} (hx : s.inputs = x :: xs)
    (hd : decode x = .ok i) : step s = exec i s := by
  simp only [step, hx, hd]

theorem step_of_decode_error {s : State} {x : Input} {xs : List Input} {e : Reject} (hx : s.inputs = x :: xs)
    (hd : decode x = .error e) : step s = rejectInput e s := by
  simp only [step, hx, hd]

/-- Settles O18: running the decoded instruction is the step's own branch for an accepted input. -/
theorem stepRunsTheDecodedInstruction : Obligations.StepRunsTheDecodedInstruction := by
  intro s x xs i hx hd
  exact step_of_decode_ok hx hd

/-! ### Idle entries and unfinished input sequences -/

theorem agentStep_of_not_busy {s : State} (hb : busy s = false) : agentStep s = s := by
  obtain ⟨htx, hstate⟩ := (busy_eq_false_iff s).mp hb
  simp [agentStep, htx, hstate]

theorem accept_of_inputs_cons {s : State} {x : Input} {xs : List Input} (hx : s.inputs = x :: xs) :
    accept s = { s with inputs := xs } := by
  simp [accept, hx]

/-- An idle entry is taken, and the agent moves as it would with the entry still there (R14, log 5). -/
theorem step_idle {s : State} {xs : List Input} (hx : s.inputs = .idle :: xs) :
    step s = .next { agentStep s with inputs := xs } := by
  have hstep : step s = .next (agentStep (accept s)) := step_of_decode_error hx rfl
  rw [hstep, accept_of_inputs_cons hx, agentStep_withInputs]

/-- A stream carries no sequence exactly while none of its beats is marked last (R34). -/
theorem collectBeats_eq_none_iff (bs : List Beat) : collectBeats bs = none ↔ ∀ b ∈ bs, b.last = false := by
  induction bs with
  | nil => simp [collectBeats]
  | cons b bs ih => cases hb : b.last <;> simp [collectBeats, hb, ih]

theorem commandSeq_eq_none {c : Command} (hempty : c.empty = false) (hlast : ∀ b ∈ c.beats, b.last = false) :
    commandSeq c = none := by
  simp [commandSeq, hempty, (collectBeats_eq_none_iff c.beats).mpr hlast]

/-- The three operations that read an input sequence wait for its end (D21, log 14). -/
theorem decodeCommand_inputUnfinished {c : Command} (hop : c.op = opEncode ∨ c.op = opDecode ∨ c.op = opSend)
    (hseq : commandSeq c = none) : decodeCommand c = .error .inputUnfinished := by
  rcases hop with h | h | h <;> simp [decodeCommand, h, hseq, opConstruct, opEncode, opDecode, opSend]

/-- Settles O31: an idle entry is taken and an unfinished command held, and both leave the move to the agent,
whose step reads no input and is no change where no SEND is unreturned. -/
theorem idleAndUnfinishedLetTheAgentMove : Obligations.IdleAndUnfinishedLetTheAgentMove := by
  refine ⟨fun xs s hx => ⟨step_idle hx, fun hb => ?_⟩, fun c xs s hx hop hempty hlast => ?_⟩
  · rw [step_idle hx, agentStep_of_not_busy hb]
  · have hd : decode (.command c) = .error .inputUnfinished :=
      decodeCommand_inputUnfinished hop (commandSeq_eq_none hempty hlast)
    have hstep : step s = .next (agentStep s) := step_of_decode_error hx hd
    refine ⟨hd, hstep, agentStep_inputs s, fun hb => ?_⟩
    rw [hstep, agentStep_of_not_busy hb]

/-! ### What is refused -/

/-- CONSTRUCT goes on in every state (R131, R132, R133, R148). -/
theorem execConstruct_next (sa : Addr) (so : Off) (tp : Bool) (s : State) :
    ∃ t, execConstruct sa so tp s = .next t := by
  cases hb : busy s with
  | true => exact ⟨hold s, by simp [execConstruct, hb]⟩
  | false =>
    cases hl : live s with
    | true => exact ⟨ignoreOp s, by simp [execConstruct, hb, hl]⟩
    | false => cases tp <;> simp [execConstruct, hb, hl]

/-- ENCODE goes on for every payload, `MAX_PAYLOAD` being none (R106, log 8). -/
theorem execEncode_next (a c : Int) (sa : Addr) (so : Off) (p : List Byte) (s : State) :
    ∃ t, execEncode a c sa so p s = .next t := by
  cases hf : encodeFrame a c sa so p <;> simp [execEncode, hf]

theorem execDecode_next (f : List Byte) (s : State) : ∃ t, execDecode f s = .next t := by
  cases hf : decodeFrame f <;> simp [execDecode, hf]

/-- SEND goes on in every state for every payload, `MAX_PAYLOAD` being none (R134, R136, R137, R148, log 8). -/
theorem execSend_next (a c : Int) (p : List Byte) (s : State) : ∃ t, execSend a c p s = .next t := by
  cases hb : busy s with
  | true => exact ⟨hold s, by simp [execSend, hb]⟩
  | false =>
    cases hl : live s with
    | false => exact ⟨raiseError .sessionClosedError s, by simp [execSend, hb, hl]⟩
    | true => cases hf : encodeFrame a c s.saddr s.soff p <;> simp [execSend, hb, hl, hf]

/-- CLOSE goes on in every state (R146, R147, R148). -/
theorem execClose_next (s : State) : ∃ t, execClose s = .next t := by
  cases hb : busy s with
  | true => exact ⟨hold s, by simp [execClose, hb]⟩
  | false => cases hl : live s <;> simp [execClose, hb, hl]

/-- An instruction goes on, or it is a frame header and is refused (R81, log 16). -/
theorem exec_next_or_bareFrame (i : Instr) (s : State) :
    (∃ t, exec i s = .next t) ∨ ((∃ h, i = .frameHeader h) ∧ exec i s = .refused .bareFrame) := by
  cases i with
  | construct sa so tp => exact .inl (execConstruct_next sa so tp s)
  | encode a c sa so p => exact .inl (execEncode_next a c sa so p s)
  | decode f => exact .inl (execDecode_next f s)
  | send a c p => exact .inl (execSend_next a c p s)
  | close => exact .inl (execClose_next s)
  | frameHeader h => exact .inr ⟨⟨h, rfl⟩, rfl⟩

/-- An input that is no instruction is dealt with, or it is a frame too short for a header and is refused. -/
theorem rejectInput_next_or_bareFrame (e : Reject) (s : State) :
    (∃ t, rejectInput e s = .next t) ∨ (e = .truncatedFrame ∧ rejectInput e s = .refused .bareFrame) := by
  cases e with
  | truncatedFrame => exact .inr ⟨rfl, rfl⟩
  | noOperation | resetSampled _ | reservedOp _ | inputUnfinished | malformedLine => exact .inl ⟨_, rfl⟩

theorem decodeCommand_ne_frameHeader (c : Command) (h : Header) : decodeCommand c ≠ .ok (.frameHeader h) := by
  unfold decodeCommand
  repeat' split
  all_goals exact nofun

theorem decodeCommand_ne_truncatedFrame (c : Command) : decodeCommand c ≠ .error .truncatedFrame := by
  unfold decodeCommand
  repeat' split
  all_goals exact nofun

/-- Only a presented frame decodes to a frame header. -/
theorem decode_frameHeader {x : Input} {h : Header} (hd : decode x = .ok (.frameHeader h)) : ∃ f, x = .frame f := by
  cases x with
  | frame f => exact ⟨f, rfl⟩
  | command c => exact absurd hd (decodeCommand_ne_frameHeader c h)
  | line t => simp only [decode] at hd; split at hd <;> cases hd
  | idle => cases hd
  | reset k => cases hd

/-- Only a presented frame is rejected as truncated. -/
theorem decode_truncatedFrame {x : Input} (hd : decode x = .error .truncatedFrame) : ∃ f, x = .frame f := by
  cases x with
  | frame f => exact ⟨f, rfl⟩
  | command c => exact absurd hd (decodeCommand_ne_truncatedFrame c)
  | line t => simp only [decode] at hd; split at hd <;> cases hd
  | idle => cases hd
  | reset k => cases hd

/-- A step goes on, or the first input is a frame with no operation and the step refuses it (R4, R61). -/
theorem step_next_or_bareFrame (s : State) :
    (∃ t, step s = .next t) ∨ (step s = .refused .bareFrame ∧ ∃ f, s.inputs.head? = some (.frame f)) := by
  cases hx : s.inputs with
  | nil => exact .inl ⟨agentStep s, by simp only [step, hx]⟩
  | cons x xs =>
    cases hd : decode x with
    | ok i =>
      rw [step_of_decode_ok hx hd]
      refine (exec_next_or_bareFrame i s).imp_right ?_
      rintro ⟨⟨h, rfl⟩, hrefused⟩
      obtain ⟨f, rfl⟩ := decode_frameHeader hd
      exact ⟨hrefused, f, rfl⟩
    | error e =>
      rw [step_of_decode_error hx hd]
      refine (rejectInput_next_or_bareFrame e s).imp_right ?_
      rintro ⟨rfl, hrefused⟩
      obtain ⟨f, rfl⟩ := decode_truncatedFrame hd
      exact ⟨hrefused, f, rfl⟩

/-- Settles O47: a refused step is not one that goes on, so it is the refusal of a bare frame. -/
theorem onlyBareFramesAreRefused : Obligations.OnlyBareFramesAreRefused := by
  intro s r hr
  obtain ⟨t, ht⟩ | ⟨hbare, hframe⟩ := step_next_or_bareFrame s
  · rw [ht] at hr
    cases hr
  · rw [hbare] at hr
    exact ⟨(Host.Outcome.refused.inj hr).symm, hframe⟩

end Sys2Proof.Proofs
end

section
/-! SUPPORT. The registers of the block over one step: the invariant, where STATE, the identity and WIRE move, what
reads the identity, and what a stream port and the codec make of their operands. Settles O9, O14, O20, O38, O39,
O40, O41, O43, O44, O45, O52 and O53. -/

namespace Sys2Proof.Proofs

open Sys2Proof.Machine

/-! ### Codes, values at reset and ports -/

/-- Settles O20: both sides of each equation are literals of the tables. -/
theorem codesAreTheTables : Obligations.CodesAreTheTables := by
  unfold Obligations.CodesAreTheTables
  decide

/-- Settles O52: `State.reset` holds the values of R35. -/
theorem resetValues : Obligations.ResetValues := by
  unfold Obligations.ResetValues
  decide

/-- Settles O39: the port is the predicate of R27. -/
theorem transportBoundExactlyWhileLive : Obligations.TransportBoundExactlyWhileLive := by
  intro s
  exact live_iff s

/-! ### What each kind of effect leaves as it was -/

/-- Returning a result or taking an input writes the command port, the result list and the draw counter only. -/
theorem result_eq_update {s t : State}
    (h : t = accept s ∨ t = ignoreOp s ∨ (∃ d, t = returnOk d s) ∨ ∃ e, t = raiseError e s) :
    ∃ xs rs n, t = { s with inputs := xs, results := rs, draws := n } := by
  obtain rfl | rfl | ⟨d, rfl⟩ | ⟨e, rfl⟩ := h
  · exact ⟨s.inputs.tail, s.results, s.draws, rfl⟩
  · exact ⟨_, _, s.draws + 1, rfl⟩
  · exact ⟨_, _, s.draws, rfl⟩
  · exact ⟨_, _, s.draws, rfl⟩

/-- No agent writes the identity (R23). -/
theorem agentStep_identity (s : State) : (agentStep s).saddr = s.saddr ∧ (agentStep s).soff = s.soff := by
  obtain ⟨f, n, st, -, -, -, h⟩ | ⟨st, -, -, -, h⟩ | ⟨-, -, -, h⟩ | ⟨-, h⟩ := agentStep_effect s
  all_goals simp [h]

/-- From `s` to `t` WIRE grew by nothing, or by first bytes of the frame under way in `s`. -/
def WireGrowsByFrame (s t : State) : Prop :=
  ∃ w, t.wire = s.wire ++ w ∧ (w ≠ [] → ∃ f, s.tx = some f ∧ w <+: f)

theorem wireGrowsByFrame_of_eq {s t : State} (h : t.wire = s.wire) : WireGrowsByFrame s t :=
  ⟨[], by simp [h], fun hne => absurd rfl hne⟩

/-- The transport alone appends to WIRE (R140, R141). -/
theorem agentStep_wire (s : State) : WireGrowsByFrame s (agentStep s) := by
  obtain ⟨f, n, st, hf, -, -, h⟩ | ⟨st, -, -, -, h⟩ | ⟨-, -, -, h⟩ | ⟨-, h⟩ := agentStep_effect s
  · exact ⟨f.take n, by simp [h], fun _ => ⟨f, hf, List.take_prefix n f⟩⟩
  · exact wireGrowsByFrame_of_eq (by simp [h])
  · exact wireGrowsByFrame_of_eq (by simp [h])
  · exact wireGrowsByFrame_of_eq (by simp [h])

/-- A session that has no SEND unreturned is in OPEN. -/
theorem state_open_of_live {s : State} (hb : busy s = false) (hl : live s = true) : s.state = .open :=
  ((live_iff s).mp hl).resolve_right ((busy_eq_false_iff s).mp hb).2

/-! ### The invariant -/

theorem accept_keeps_inv {s : State} (hI : Inv s) : Inv (accept s) :=
  Inv_of_same hI rfl rfl rfl rfl rfl rfl rfl rfl

theorem pending_eq_none_iff_of_inv {s : State} (hI : Inv s) : s.pending = none ↔ s.state ≠ .settling :=
  Option.not_isSome_iff_eq_none.symm.trans (not_congr hI.pending_settling)

/-- With no write under way and no result pending the invariant speaks of STATE and the write boundaries only. -/
theorem inv_of_nothing_in_flight {s : State} (htx : s.tx = none) (hp : s.pending = none) (hs : s.state ≠ .settling)
    (hm : marksTile 0 s.marks s.wire.length = true) : Inv s where
  tx_open h := by simp [htx] at h
  pending_settling := by simp [hp, hs]
  pending_status st h := by simp [hp] at h
  marks_tile := hm
  tx_sender f h := by simp [htx] at h
  tx_bidx h := by simp [htx] at h

/-- The sender's fields stand at bytes 3 to 5 of an encoded frame (R70, R135). -/
theorem encodeFrame_sender {a c : Int} {sa : Addr} {so : Off} {p f : List Byte}
    (hf : encodeFrame a c sa so p = some f) : (f.drop 3).take 3 = [hiByte sa, loByte sa, so] := by
  obtain ⟨-, -, rfl⟩ := encodeFrame_some hf
  rfl

theorem startWrite_keeps_inv {s : State} {a c : Int} {p f : List Byte} (hI : Inv s) (hs : s.state = .open)
    (hf : encodeFrame a c s.saddr s.soff p = some f) : Inv (startWrite f s) where
  tx_open _ := hs
  pending_settling := hI.pending_settling
  pending_status := hI.pending_status
  marks_tile := hI.marks_tile
  tx_sender g hg := by
    obtain rfl : f = g := Option.some.inj hg
    exact ⟨by simp [encodeFrame_length hf], encodeFrame_sender hf⟩
  tx_bidx _ := rfl

/-- A write that returned is one more write at the end of WIRE, and its status waits for the timer (R31, R134). -/
theorem settledWrite_keeps_inv {s : State} {st : Status} (f : List Byte) (n : Nat) (hI : Inv s)
    (hst : st = .ok ∨ st = .transportWriteError) : Inv (startSettle st (recordWrite f n (dropAnswer s))) where
  tx_open h := by simp at h
  pending_settling := by simp
  pending_status st' h := by
    obtain rfl : statusCode st = st' := Option.some.inj h
    exact hst.imp (congrArg statusCode) (congrArg statusCode)
  marks_tile := by simpa using marksTile_append s.marks 0 s.wire.length (f.take n).length hI.marks_tile
  tx_sender g h := by simp at h
  tx_bidx h := by simp at h

theorem agentStep_keeps_inv {s : State} (hI : Inv s) : Inv (agentStep s) := by
  obtain ⟨f, n, st, -, -, hst, h⟩ | ⟨st, htx, -, -, h⟩ | ⟨-, hs, hp, -⟩ | ⟨-, h⟩ := agentStep_effect s
  · rw [h]
    exact settledWrite_keeps_inv f n hI hst
  · rw [h]
    exact inv_of_nothing_in_flight htx rfl nofun hI.marks_tile
  · exact absurd hs ((pending_eq_none_iff_of_inv hI).mp hp)
  · rwa [h]

/-- Settles O43, by the kinds of effect a step can have. -/
theorem stepKeepsInv : Obligations.StepKeepsInv := by
  intro s t hI h
  cases step_effect h with
  | result h =>
    obtain ⟨xs, rs, n, rfl⟩ := result_eq_update h
    exact Inv_of_same hI rfl rfl rfl rfl rfl rfl rfl rfl
  | agent u hu h =>
    subst h
    obtain rfl | rfl := hu
    · exact agentStep_keeps_inv hI
    · exact agentStep_keeps_inv (accept_keeps_inv hI)
  | opened x xs hx sa so hd hb hl h =>
    subst h
    obtain ⟨htx, hs⟩ := (busy_eq_false_iff s).mp hb
    have hp : s.pending = none := (pending_eq_none_iff_of_inv hI).mpr hs
    exact inv_of_nothing_in_flight htx hp nofun hI.marks_tile
  | closed x xs hx hd hb hl h =>
    subst h
    obtain ⟨htx, hs⟩ := (busy_eq_false_iff s).mp hb
    have hp : s.pending = none := (pending_eq_none_iff_of_inv hI).mpr hs
    exact inv_of_nothing_in_flight htx hp nofun hI.marks_tile
  | started x xs hx a c p f hd hb hl hf h =>
    subst h
    exact startWrite_keeps_inv hI (state_open_of_live hb hl) hf
  | reset k xs hx h =>
    subst h
    exact inv_of_nothing_in_flight rfl rfl nofun (delivered_tile k (accept s))

/-- Settles O44: at both launch premises nothing is in flight. -/
theorem invHoldsAtLaunch : Obligations.InvHoldsAtLaunch := by
  refine ⟨?_, fun sa so w0 marks0 htile => ?_⟩
  · exact inv_of_nothing_in_flight rfl rfl nofun rfl
  · exact inv_of_nothing_in_flight rfl rfl nofun htile

/-! ### What moves STATE, the identity and WIRE -/

/-- The moves of R26 an agent makes: a write that ends goes to SETTLING, the timer to OPEN. -/
theorem agentStep_moves {s : State} (hI : Inv s) :
    (agentStep s).state = s.state ∨
    (s.state = .open ∧ (agentStep s).state = .settling ∧ s.tx.isSome = true ∧ (agentStep s).tx = none) ∨
    (s.state = .settling ∧ (agentStep s).state = .open ∧ ∃ st, s.pending = some st ∧
      (agentStep s).results = s.results ++ [⟨st, .nothing⟩]) := by
  obtain ⟨f, n, st, hf, -, -, h⟩ | ⟨st, -, hs, hp, h⟩ | ⟨-, hs, hp, -⟩ | ⟨-, h⟩ := agentStep_effect s
  · have htx : s.tx.isSome = true := by simp [hf]
    exact .inr (.inl ⟨hI.tx_open htx, by simp [h], htx, by simp [h]⟩)
  · exact .inr (.inr ⟨hs, by simp [h], st, hp, by simp [h]⟩)
  · exact absurd hs ((pending_eq_none_iff_of_inv hI).mp hp)
  · exact .inl (by rw [h])

/-- Settles O38, by the kinds of effect: a result and a started write leave STATE, an agent, a CONSTRUCT and a
CLOSE make one move each. -/
theorem stateMovesOnlyByTheTable : Obligations.StateMovesOnlyByTheTable := by
  intro s t hI h hreset
  cases step_effect h with
  | result h =>
    obtain ⟨xs, rs, n, rfl⟩ := result_eq_update h
    exact .inl rfl
  | agent u hu h =>
    subst h
    obtain rfl | rfl := hu
    · exact (agentStep_moves hI).imp_right fun hmove => .inr (hmove.imp_right .inl)
    · exact (agentStep_moves (accept_keeps_inv hI)).imp_right fun hmove => .inr (hmove.imp_right .inl)
  | opened x xs hx sa so hd hb hl h =>
    subst h
    exact .inr (.inl ⟨(live_eq_false_iff s).mp hl, rfl, x, sa, so, by simp [hx], hd⟩)
  | closed x xs hx hd hb hl h =>
    subst h
    exact .inr (.inr (.inr (.inr
      ⟨state_open_of_live hb hl, rfl, ((busy_eq_false_iff s).mp hb).1, x, by simp [hx], hd⟩)))
  | started x xs hx a c p f hd hb hl hf h =>
    subst h
    exact .inl rfl
  | reset k xs hx h => exact absurd (by simp [hx]) (hreset k)

/-- Settles O40, by the kinds of effect: only an opened session writes the two registers, from its CONSTRUCT. -/
theorem identityWrittenByConstructOnly : Obligations.IdentityWrittenByConstructOnly := by
  intro s t h hreset
  cases step_effect h with
  | result h =>
    obtain ⟨xs, rs, n, rfl⟩ := result_eq_update h
    exact .inl ⟨rfl, rfl⟩
  | agent u hu h =>
    subst h
    obtain rfl | rfl := hu
    · exact .inl (agentStep_identity u)
    · exact .inl (agentStep_identity (accept s))
  | opened x xs hx sa so hd hb hl h =>
    subst h
    exact .inr ⟨hl, x, by simp [hx], hd⟩
  | closed x xs hx hd hb hl h =>
    subst h
    exact .inl ⟨rfl, rfl⟩
  | started x xs hx a c p f hd hb hl hf h =>
    subst h
    exact .inl ⟨rfl, rfl⟩
  | reset k xs hx h => exact absurd (by simp [hx]) (hreset k)

/-- Settles O41, by the kinds of effect: only an agent appends to WIRE. -/
theorem wireOnlyGrowsByTheFrameUnderWay : Obligations.WireOnlyGrowsByTheFrameUnderWay := by
  intro s t h hreset
  cases step_effect h with
  | result h =>
    obtain ⟨xs, rs, n, rfl⟩ := result_eq_update h
    exact wireGrowsByFrame_of_eq rfl
  | agent u hu h =>
    subst h
    obtain rfl | rfl := hu
    · exact agentStep_wire u
    · exact agentStep_wire (accept s)
  | opened x xs hx sa so hd hb hl h => exact wireGrowsByFrame_of_eq (by simp [h])
  | closed x xs hx hd hb hl h => exact wireGrowsByFrame_of_eq (by simp [h])
  | started x xs hx a c p f hd hb hl hf h => exact wireGrowsByFrame_of_eq (by rw [h]; rfl)
  | reset k xs hx h => exact absurd (by simp [hx]) (hreset k)

/-- Settles O53: the step is `resetBlock`, whose WIRE is what was delivered of the write under way. -/
theorem resetAbandonsTheOperation : Obligations.ResetAbandonsTheOperation := by
  intro k xs s hx
  have hstep : step s = .next (resetBlock k (accept s)) := step_of_decode_error hx rfl
  refine ⟨_, hstep, rfl, rfl, rfl, rfl, by simp [hx], rfl, rfl, fun htx => ?_, fun f htx => ?_⟩
  · simp [deliveredPrefix, deliveredMarks, htx]
  · simp [deliveredPrefix, deliveredMarks, htx]

/-! ### What reads no register -/

/-- Settles O9: the response is fixed by whether the operands make a frame, or the frame has a header. -/
theorem codecResultsIgnoreState : Obligations.CodecResultsIgnoreState := by
  intro i hi
  cases i with
  | encode a c sa so p =>
    cases hf : encodeFrame a c sa so p with
    | some f =>
      exact ⟨⟨statusCode .ok, .frame f⟩, fun s => by simp only [exec, execEncode, payloadFits_eq, hf]; rfl⟩
    | none =>
      exact ⟨⟨statusCode .encodingError, .nothing⟩,
        fun s => by simp only [exec, execEncode, payloadFits_eq, hf]; rfl⟩
  | decode f =>
    cases hf : decodeFrame f with
    | some hp => exact ⟨⟨statusCode .ok, .fields hp.1 hp.2⟩, fun s => by simp only [exec, execDecode, hf]; rfl⟩
    | none => exact ⟨⟨statusCode .decodingError, .nothing⟩, fun s => by simp only [exec, execDecode, hf]; rfl⟩
  | construct sa so tp => cases hi
  | send a c p => cases hi
  | close => cases hi
  | frameHeader h => cases hi

/-- `s` with other contents of SADDR and SOFF. -/
def withIdentity (sa : Addr) (so : Off) (s : State) : State := { s with saddr := sa, soff := so }

/-- Two outcomes agree though the second started from another identity: they are equal, or the second carries the
other identity on and no session is live. -/
def AgreeButIdentity (sa : Addr) (so : Off) (o o' : Host.Outcome State Fault Refusal) : Prop :=
  o' = o ∨ ∃ t, o = .next t ∧ live t = false ∧ o' = .next (withIdentity sa so t)

/-- Outside a session an instruction reads neither register: CONSTRUCT overwrites both, and SEND ends before it would
read them (R131, R137). -/
theorem exec_agreeButIdentity (i : Instr) {s : State} (sa : Addr) (so : Off) (hl : live s = false)
    (hb : busy s = false) : AgreeButIdentity sa so (exec i s) (exec i (withIdentity sa so s)) := by
  have hl' : live (withIdentity sa so s) = false := hl
  have hb' : busy (withIdentity sa so s) = false := hb
  cases i with
  | construct sa' so' tp =>
    cases tp with
    | true => exact .inl (by simp only [exec, execConstruct, hb, hb', hl, hl']; rfl)
    | false =>
      exact .inr ⟨raiseError .transportOpenError s, by simp [exec, execConstruct, hb, hl], hl,
        by simp only [exec, execConstruct, hb', hl']; rfl⟩
  | encode a c sa' so' p =>
    obtain ⟨r, hr⟩ := codecResultsIgnoreState (.encode a c sa' so' p) rfl
    exact .inr ⟨_, hr s, hl, hr (withIdentity sa so s)⟩
  | decode f =>
    obtain ⟨r, hr⟩ := codecResultsIgnoreState (.decode f) rfl
    exact .inr ⟨_, hr s, hl, hr (withIdentity sa so s)⟩
  | send a c p =>
    exact .inr ⟨raiseError .sessionClosedError s, by simp [exec, execSend, hb, hl], hl,
      by simp only [exec, execSend, hb', hl']; rfl⟩
  | close =>
    exact .inr ⟨ignoreOp s, by simp [exec, execClose, hb, hl], hl, by simp only [exec, execClose, hb', hl']; rfl⟩
  | frameHeader h => exact .inl rfl

/-- No agent moves where no SEND is unreturned, so the step goes on with the state as it was. -/
theorem next_agentStep_of_not_busy {s : State} (hb : busy s = false) :
    (.next (agentStep s) : Host.Outcome State Fault Refusal) = .next s := by
  rw [agentStep_of_not_busy hb]

/-- With no agent to move, what is done with an input that is no instruction reads neither register. -/
theorem rejectInput_agreeButIdentity (e : Reject) {s : State} (sa : Addr) (so : Off) (hl : live s = false)
    (hb : busy s = false) : AgreeButIdentity sa so (rejectInput e s) (rejectInput e (withIdentity sa so s)) := by
  cases e with
  | noOperation =>
    exact .inr ⟨accept s, next_agentStep_of_not_busy hb, hl,
      next_agentStep_of_not_busy (s := accept (withIdentity sa so s)) hb⟩
  | resetSampled k => exact .inl rfl
  | reservedOp op => exact .inr ⟨ignoreOp s, rfl, hl, rfl⟩
  | inputUnfinished =>
    exact .inr ⟨s, next_agentStep_of_not_busy hb, hl, next_agentStep_of_not_busy (s := withIdentity sa so s) hb⟩
  | malformedLine => exact .inr ⟨accept s, rfl, hl, rfl⟩
  | truncatedFrame => exact .inl rfl

theorem step_agreeButIdentity {s : State} (sa : Addr) (so : Off) (hl : live s = false) (hb : busy s = false) :
    AgreeButIdentity sa so (step s) (step (withIdentity sa so s)) := by
  cases hx : s.inputs with
  | nil =>
    have hstep {u : State} (hu : u.inputs = []) (hbu : busy u = false) : step u = .next u := by
      simp only [step, hu, agentStep_of_not_busy hbu]
    exact .inr ⟨s, hstep hx hb, hl, hstep hx hb⟩
  | cons x xs =>
    have hx' : (withIdentity sa so s).inputs = x :: xs := hx
    cases hd : decode x with
    | ok i =>
      rw [step_of_decode_ok hx hd, step_of_decode_ok hx' hd]
      exact exec_agreeButIdentity i sa so hl hb
    | error e =>
      rw [step_of_decode_error hx hd, step_of_decode_error hx' hd]
      exact rejectInput_agreeButIdentity e sa so hl hb

/-- Settles O45: the two steps agree but for the identity, and differ there only where no session is live. -/
theorem identityUnreadOutsideSession : Obligations.IdentityUnreadOutsideSession := by
  intro s sa so hl htx
  have hb : busy s = false := (busy_eq_false_iff s).mpr ⟨htx, fun hs => by simp [live, hs] at hl⟩
  obtain hsame | ⟨t, ht, hlt, ht'⟩ := step_agreeButIdentity sa so hl hb
  · simp only [withIdentity] at hsame
    rw [hsame]
    cases step s with
    | next t => exact ⟨t.saddr, t.soff, rfl, fun _ => ⟨rfl, rfl⟩⟩
    | fault r => rfl
    | refused r => rfl
  · rw [ht]
    exact ⟨sa, so, ht', fun hlive => by simp [hlt] at hlive⟩

/-! ### The stream ports -/

theorem beatsOf_data (p : List Byte) : (beatsOf p).map Beat.data = p := by
  induction p using beatsOf.induct with
  | case1 => rfl
  | case2 b => rfl
  | case3 b b' bs ih => simp [beatsOf, ih]

/-- The mark stands on the final beat and on no other (R34). -/
theorem beatsOf_last (p : List Byte) :
    ∀ i b, (beatsOf p)[i]? = some b → (b.last = true ↔ i + 1 = p.length) := by
  induction p using beatsOf.induct with
  | case1 => simp [beatsOf]
  | case2 b =>
    intro i beat h
    cases i with
    | zero =>
      obtain rfl : ⟨b, true⟩ = beat := Option.some.inj h
      simp
    | succ i => simp [beatsOf] at h
  | case3 b b' bs ih =>
    intro i beat h
    cases i with
    | zero =>
      obtain rfl : ⟨b, false⟩ = beat := Option.some.inj h
      simp
    | succ i => simpa using ih i beat h

/-- Collecting stops at the mark, so the beats after it do not matter (R34, D21). -/
theorem collectBeats_beatsOf_append (p : List Byte) (hne : p ≠ []) (more : List Beat) :
    collectBeats (beatsOf p ++ more) = some p := by
  induction p using beatsOf.induct with
  | case1 => exact absurd rfl hne
  | case2 b => rfl
  | case3 b b' bs ih => simp [beatsOf, collectBeats, ih]

/-- Settles O14, each clause by the recursion of `beatsOf`. -/
theorem streamCarriesTheSequence : Obligations.StreamCarriesTheSequence := by
  intro p
  exact ⟨beatsOf_data p, beatsOf_last p, collectBeats_beatsOf_append p⟩

end Sys2Proof.Proofs
end

section
/-! SUPPORT. Writes: what starts one, and a SEND's three steps one after another over a list of SENDs. Settles O42 and
O33. -/

namespace Sys2Proof.Proofs

open Sys2Proof.Machine

/-! ### What starts a write -/

/-- An agent ends the write under way and starts none (R14). -/
theorem agentStep_tx (s : State) : (agentStep s).tx = none := by
  obtain ⟨f, n, st, -, -, -, h⟩ | ⟨st, htx, -, -, h⟩ | ⟨htx, -, -, h⟩ | ⟨hb, h⟩ := agentStep_effect s
  · simp [h]
  · simpa [h] using htx
  · simpa [h] using htx
  · rw [h]
    exact ((busy_eq_false_iff s).mp hb).1

/-- Settles O42, by the kinds of effect: all but a started write leave the transport with no frame. -/
theorem writeStartsOnlyFromSend : Obligations.WriteStartsOnlyFromSend := by
  intro s t f h htx ht
  cases step_effect h with
  | result h =>
    obtain ⟨xs, rs, n, rfl⟩ := result_eq_update h
    simp [htx] at ht
  | agent u hu h => simp [h, agentStep_tx] at ht
  | opened x xs hx sa so hd hb hl h => simp [h, htx] at ht
  | closed x xs hx hd hb hl h => simp [h, htx] at ht
  | started x xs hx a c p g hd hb hl hg h =>
    subst h
    obtain rfl : g = f := Option.some.inj ht
    exact ⟨state_open_of_live hb hl, rfl, x, a, c, p, by simp [hx], hd, hg⟩
  | reset k xs hx h => simp [h] at ht

/-! ### The three steps of a SEND -/

/-- In OPEN, with no write under way, SEND hands its frame to the transport (R134). -/
theorem execSend_startsWrite {s : State} {a c : Int} {p f : List Byte} (htx : s.tx = none) (hs : s.state = .open)
    (hf : encodeFrame a c s.saddr s.soff p = some f) : execSend a c p s = .next (startWrite f s) := by
  have hb : busy s = false := (busy_eq_false_iff s).mpr ⟨htx, by simp [hs]⟩
  have hl : live s = true := (live_iff s).mpr (.inl hs)
  simp [execSend, hb, hl, hf]

/-- A listed answer fixes what the transport's step does to the write of `f` (R140, R141, R143). -/
theorem agentStep_of_listed_answer {s : State} {f : List Byte} {w : WriteAnswer} {ws : List WriteAnswer}
    (htx : s.tx = some f) (ha : s.answers = w :: ws) :
    agentStep s = { s with
      wire := s.wire ++ f.take (bytesTaken f w)
      marks := s.marks ++ [⟨s.wire.length, s.wire.length + bytesTaken f w⟩]
      bidx := bytesTaken f w
      tx := none
      state := .settling
      pending := some (writeStatus w)
      answers := ws } := by
  have hstep : agentStep s = finishWrite f w { s with answers := ws } := by
    simp [agentStep, htx, transportStep, nextAnswer, dropAnswer, ha]
  rw [hstep]
  cases w with
  | ok => simp [finishWrite, recordWrite, startSettle, bytesTaken, writeStatus, statusCode]
  | fail k =>
    have hk : f.take (min k f.length) = f.take k := List.take_eq_take_iff.mpr (by simp)
    simp [finishWrite, afterFailedWrite, Config.settleAfterFailedWrite, recordWrite, startSettle, bytesTaken,
      writeStatus, statusCode, hk]

/-- The timer's step, where a result is pending (R142). -/
theorem agentStep_of_pending {s : State} {st : BitVec 3} (htx : s.tx = none) (hs : s.state = .settling)
    (hp : s.pending = some st) :
    agentStep s = { s with results := s.results ++ [⟨st, .nothing⟩], state := .open, pending := none } := by
  simp [agentStep, htx, hs, timerStep_some hp]

/-- `s` after a SEND has gone from its acceptance to its return: the transport answered the write of `f` with `w`,
and `xs` and `ws` are what is then still presented and listed. -/
def sendReturned (f : List Byte) (w : WriteAnswer) (xs : List Input) (ws : List WriteAnswer) (s : State) : State :=
  { s with
    inputs := xs
    answers := ws
    wire := s.wire ++ f.take (bytesTaken f w)
    marks := s.marks ++ [⟨s.wire.length, s.wire.length + bytesTaken f w⟩]
    bidx := bytesTaken f w
    pending := none
    results := s.results ++ [⟨writeStatus w, .nothing⟩] }

theorem run_succ_of_step {s t : State} (n : Nat) (h : step s = .next t) : core.run (n + 1) s = core.run n t := by
  have hcore : core.step s = .next t := h
  simp only [Host.Core.run, hcore]

/-- A SEND in OPEN returns after three steps: its own, the transport's and the timer's (R134, R139). -/
theorem run_send {s : State} {x : Input} {ys : List Input} {a c : Int} {p f : List Byte} {w : WriteAnswer}
    {ws : List WriteAnswer} (htx : s.tx = none) (hs : s.state = .open) (hx : s.inputs = x :: ys)
    (hw : headWaits ys = true) (hw' : headWaits (afterWait ys) = true) (hd : decode x = .ok (.send a c p))
    (hf : encodeFrame a c s.saddr s.soff p = some f) (ha : s.answers = w :: ws) :
    core.run 3 s = .next (sendReturned f w (afterWait (afterWait ys)) ws s) := by
  have hstart : step s = .next (startWrite f s) :=
    (step_of_decode_ok hx hd).trans (execSend_startsWrite htx hs hf)
  have hin : (startWrite f s).inputs = ys := by simp [hx]
  have hwrite := step_waiting (s := startWrite f s) (by simp [busy]) (by rw [hin]; exact hw)
  rw [agentStep_of_listed_answer (startWrite_tx f s) ha, hin] at hwrite
  rw [run_succ_of_step 2 hstart, run_succ_of_step 1 hwrite,
    run_succ_of_step 0 (step_waiting (by simp [busy]) hw'), agentStep_of_pending rfl rfl rfl]
  simp [Host.Core.run, sendReturned, startWrite, accept, htx, hs]

/-! ### SENDs in a row -/

/-- Nothing is presented, or a session operation is. -/
def SessionOpNext (xs : List Input) : Prop :=
  ∀ y, xs.head? = some y → ∃ i, decode y = .ok i ∧ sessionOp i = true

/-- A session operation is held while a SEND has not returned (R148, R149). -/
theorem headWaits_of_sessionOpNext {xs : List Input} (h : SessionOpNext xs) : headWaits xs = true := by
  cases xs with
  | nil => rfl
  | cons x xs =>
    obtain ⟨i, hd, hi⟩ := h x rfl
    simp [headWaits, waits, hd, hi]

/-- A held session operation stays presented (R148). -/
theorem afterWait_of_sessionOpNext {xs : List Input} (h : SessionOpNext xs) : afterWait xs = xs := by
  cases xs with
  | nil => rfl
  | cons x xs =>
    obtain ⟨i, hd, -⟩ := h x rfl
    have hne : x ≠ .idle := by
      rintro rfl
      cases hd
    simp [afterWait, hne]

/-- Before a session operation a SEND returns and leaves all that follows it presented (R148, R149). -/
theorem run_send_before_sessionOp {s : State} {x : Input} {ys : List Input} {a c : Int} {p f : List Byte}
    {w : WriteAnswer} {ws : List WriteAnswer} (htx : s.tx = none) (hs : s.state = .open) (hx : s.inputs = x :: ys)
    (hys : SessionOpNext ys) (hd : decode x = .ok (.send a c p))
    (hf : encodeFrame a c s.saddr s.soff p = some f) (ha : s.answers = w :: ws) :
    core.run 3 s = .next (sendReturned f w ys ws s) := by
  have hw : headWaits ys = true := headWaits_of_sessionOpNext hys
  have hid : afterWait ys = ys := afterWait_of_sessionOpNext hys
  simpa only [hid] using run_send htx hs hx hw (by rwa [hid]) hd hf ha

/-- Every entry of `l` presents a SEND whose frame, under the identity `(sa, so)`, is the one it names (R135). -/
def Encodable (sa : Addr) (so : Off) (l : List IssuedSend) : Prop :=
  ∀ e ∈ l, ∃ a c p, decode e.input = .ok (.send a c p) ∧ encodeFrame a c sa so p = some e.frame

theorem sessionOpNext_of_encodable {sa : Addr} {so : Off} {l : List IssuedSend} {ys : List Input}
    (hl : Encodable sa so l) (hys : SessionOpNext ys) : SessionOpNext (l.map (·.input) ++ ys) := by
  cases l with
  | nil => exact hys
  | cons e l =>
    obtain ⟨a, c, p, hd, -⟩ := hl e List.mem_cons_self
    intro y hy
    obtain rfl : e.input = y := Option.some.inj hy
    exact ⟨_, hd, rfl⟩

/-- Settles O33, by induction on the list: three steps return its first SEND, and leave OPEN, the identity, and what
follows presented (`run_send_before_sessionOp`), so the rest runs from there. -/
theorem sendsReachWireInOrder : Obligations.SendsReachWireInOrder := by
  intro l ys ws s htx hs hin hans hl hys
  change Encodable s.saddr s.soff l at hl
  induction l generalizing s with
  | nil => exact ⟨s, rfl, hs, htx, by simpa using hin, by simpa using hans, rfl, rfl, by simp, by simp, by simp⟩
  | cons e l ih =>
    obtain ⟨a, c, p, hd, hf⟩ := hl e List.mem_cons_self
    have hrest : Encodable s.saddr s.soff l := fun e' he' => hl e' (List.mem_cons_of_mem e he')
    have hnext : SessionOpNext (l.map (·.input) ++ ys) := sessionOpNext_of_encodable hrest hys
    have hfirst := run_send_before_sessionOp htx hs hin hnext hd hf hans
    obtain ⟨t, hrun, hopen, ht, hti, hta, hsa, hso, hwire, hmarks, hres⟩ :=
      ih (sendReturned e.frame e.answer (l.map (·.input) ++ ys) (l.map (·.answer) ++ ws) s) htx hs rfl rfl hrest
    refine ⟨t, ?_, hopen, ht, hti, hta, hsa, hso, ?_, ?_, ?_⟩
    · rw [List.length_cons, Nat.mul_succ, Nat.add_comm]
      exact (run_add core _ 3 hfirst).trans hrun
    · simp [hwire, sendReturned]
    · simp [hmarks, sendReturned]
    · simp [hres, sendReturned]

end Sys2Proof.Proofs
end

section
/-! SUPPORT. The encodings (30_encoding.md): a frame's header as bytes, as fields and as one word, what the codec and
the multiplexer make of it, and the command decoder, one equation per operation code. Settles O15, O4, O5, O6, O8,
O12, O17, O16 and O19. -/

namespace Sys2Proof.Proofs

open Sys2Proof.Machine

/-! ### Header bytes and fields -/

/-- An address is its two bytes again (R8). -/
theorem joinBytes_hiByte_loByte (v : Addr) : joinBytes (hiByte v) (loByte v) = v := by
  apply BitVec.eq_of_toNat_eq
  rw [toNat_joinBytes, toNat_hiByte, toNat_loByte]
  exact Nat.div_add_mod v.toNat 256

/-- Two bytes make the address of their number, high byte first (R110). -/
theorem joinBytes_eq_ofNat (h l : Byte) : joinBytes h l = BitVec.ofNat 16 (256 * h.toNat + l.toNat) := by
  rw [← toNat_joinBytes, BitVec.ofNat_toNat, BitVec.setWidth_eq]

/-- Splitting undoes the header's layout, whatever payload follows (R70, R77). -/
theorem splitFrame_headerBytes (h : Header) (p : List Byte) : splitFrame (headerBytes h ++ p) = some (h, p) := by
  simp [headerBytes, splitFrame, joinBytes_hiByte_loByte]

/-- Only a frame shorter than the header has no fields (R82). -/
theorem splitFrame_of_short {f : List Byte} (hf : f.length < 6) : splitFrame f = none := by
  unfold splitFrame
  split
  · simp at hf
    omega
  · rfl

/-- The six header bytes as numbers (R70). -/
theorem headerBytes_toNat (h : Header) :
    (headerBytes h).map BitVec.toNat =
      [h.da.toNat / 256, h.da.toNat % 256, h.dOff.toNat, h.sa.toNat / 256, h.sa.toNat % 256, h.sOff.toNat] := by
  simp [headerBytes, toNat_hiByte, toNat_loByte]

/-! ### The command decoder -/

/-- A sequence presented as the ports of R34 carry it is the sequence the command reads. -/
theorem commandSeq_of_beatsOf {c : Command} {p : List Byte} (hempty : c.empty = p.isEmpty)
    (hbeats : c.beats = beatsOf p) : commandSeq c = some p := by
  cases p with
  | nil => simp [commandSeq, hempty]
  | cons b bs =>
    have hcollect := collectBeats_beatsOf_append (b :: bs) (List.cons_ne_nil b bs) []
    rw [List.append_nil] at hcollect
    simp [commandSeq, hempty, hbeats, hcollect]

theorem decodeCommand_construct {c : Command} (hop : c.op = opConstruct) :
    decodeCommand c = .ok (.construct c.sa c.so c.tpPresent) := by
  simp [decodeCommand, hop]

theorem decodeCommand_encode {c : Command} {p : List Byte} (hop : c.op = opEncode) (hseq : commandSeq c = some p) :
    decodeCommand c = .ok (.encode c.a.toInt c.c.toInt c.sa c.so p) := by
  simp [decodeCommand, hop, hseq, opConstruct, opEncode]

theorem decodeCommand_decode {c : Command} {f : List Byte} (hop : c.op = opDecode) (hseq : commandSeq c = some f) :
    decodeCommand c = .ok (.decode f) := by
  simp [decodeCommand, hop, hseq, opConstruct, opEncode, opDecode]

theorem decodeCommand_send {c : Command} {p : List Byte} (hop : c.op = opSend) (hseq : commandSeq c = some p) :
    decodeCommand c = .ok (.send c.a.toInt c.c.toInt p) := by
  simp [decodeCommand, hop, hseq, opConstruct, opEncode, opDecode, opSend]

theorem decodeCommand_close {c : Command} (hop : c.op = opClose) : decodeCommand c = .ok .close := by
  simp [decodeCommand, hop, opConstruct, opEncode, opDecode, opSend, opClose]

/-- The three codes outside the table of R80 are rejected by name (R81). -/
theorem decodeCommand_reserved {c : Command} (hop : c.op = 0b000#3 ∨ c.op = 0b110#3 ∨ c.op = 0b111#3) :
    decodeCommand c = .error (.reservedOp c.op) := by
  rcases hop with h | h | h <;> simp [decodeCommand, h, opConstruct, opEncode, opDecode, opSend, opClose]

/-- A port carries an operand that fits it unchanged (D1). -/
theorem toInt_saturate_of_fitsPort {v : Int} (hv : fitsPort v = true) : (saturate v).toInt = v := by
  have hbound : (2 ^ (Config.inW - 1) : Int) = 2147483648 := by decide
  simp only [fitsPort, hbound, Bool.and_eq_true, decide_eq_true_eq] at hv
  obtain h | ⟨hlow, -⟩ | ⟨hhigh, -⟩ := saturate_cases v
  · exact h
  · omega
  · omega

/-- Settles O15, by the operation presented: its code selects the operation, its sequence crosses the port whole, its
integers fit their ports, and a header is its six bytes. -/
theorem decodeEncodeAgree : Obligations.DecodeEncodeAgree := by
  intro i hwf
  cases i with
  | construct sa so tp => exact decodeCommand_construct rfl
  | encode a c sa so p =>
    obtain ⟨ha, hc⟩ := Bool.and_eq_true_iff.mp hwf
    refine (decodeCommand_encode rfl (commandSeq_of_beatsOf (p := p) rfl rfl)).trans ?_
    simp only [toInt_saturate_of_fitsPort ha, toInt_saturate_of_fitsPort hc]
  | decode f => exact decodeCommand_decode rfl (commandSeq_of_beatsOf rfl rfl)
  | send a c p =>
    obtain ⟨ha, hc⟩ := Bool.and_eq_true_iff.mp hwf
    refine (decodeCommand_send rfl (commandSeq_of_beatsOf (p := p) rfl rfl)).trans ?_
    simp only [toInt_saturate_of_fitsPort ha, toInt_saturate_of_fitsPort hc]
  | close => exact decodeCommand_close rfl
  | frameHeader h =>
    have hsplit := splitFrame_headerBytes h []
    rw [List.append_nil] at hsplit
    simp only [encode, decode, hsplit]

/-- Settles O16, by evaluating the decoder on each command. -/
theorem sampleCommandsDecode : Obligations.SampleCommandsDecode := by
  unfold Obligations.SampleCommandsDecode
  decide

/-- Settles O17: the step ignores a command whose code is rejected as reserved. -/
theorem reservedCodesChangeNothing : Obligations.ReservedCodesChangeNothing := by
  intro c s xs hop hx
  have hd : decode (.command c) = .error (.reservedOp c.op) := decodeCommand_reserved hop
  refine ⟨hd, Config.freeStatus s.draws, ?_⟩
  rw [step_of_decode_error hx hd]
  simp [rejectInput, ignoreOp, respond, accept_of_inputs_cons hx]

/-- Settles O19: the arm of FRAME_HEADER is that refusal. -/
theorem frameHeaderIsNoOperation : Obligations.FrameHeaderIsNoOperation := by
  intro h s
  rfl

/-! ### Offsets and the frame -/

/-- Settles O4, on the two bands of the raw offset. -/
theorem encodableChannelsExactly : Obligations.EncodableChannelsExactly := by
  refine ⟨fun c => ?_, fun c => ?_, fun o c hlow hhigh => ?_, by decide, by decide⟩
  · rw [offOk_iff, rawOffset_eq]
    split <;> omega
  · rw [rawOffset_eq]
    split <;> omega
  · rw [rawOffset_eq]
    split <;> omega

/-- No frame means an operand out of its range (R102, R103, R106). -/
theorem encodeFrame_none {a c : Int} {sa : Addr} {so : Off} {p : List Byte} (h : encodeFrame a c sa so p = none) :
    ¬ (addrOk a = true ∧ offOk (rawOffset c) = true) := by
  intro hok
  simp [encodeFrame, hok] at h

/-- Settles O5: the checks are the ranges, and checked operands lose nothing in the header's fields. -/
theorem encodeFrameLayout : Obligations.EncodeFrameLayout := by
  intro a c sa so p o
  have ho : rawOffset c = o := rawOffset_eq c
  cases hf : encodeFrame a c sa so p with
  | some f =>
    obtain ⟨haddr, hoff, rfl⟩ := encodeFrame_some hf
    obtain ⟨ha0, ha1⟩ := (addrOk_iff a).mp haddr
    obtain ⟨ho0, ho1⟩ := (offOk_iff o).mp (ho ▸ hoff)
    refine ⟨⟨ha0, ha1, ho0, ho1⟩, by simp, ?_⟩
    rw [List.map_append, headerBytes_toNat]
    simp only [headerOf, ho, toNat_ofInt_addr ha0 ha1, toNat_ofInt_off ho0 ho1]
  | none =>
    have hnot := encodeFrame_none hf
    rw [addrOk_iff, offOk_iff, ho] at hnot
    show a < 0 ∨ a > 65535 ∨ o < 0 ∨ o > 255
    omega

/-! ### The multiplexer -/

/-- The multiplexer's byte at an index is the frame's byte there (R71). -/
theorem muxByte_eq_getElem? (h : Header) (p : List Byte) (i : Nat) : muxByte h p i = (headerBytes h ++ p)[i]? := by
  match i with
  | 0 | 1 | 2 | 3 | 4 | 5 => rfl
  | j + 6 => rfl

/-- What the multiplexer emits from an index on is that stretch of the frame (R28, R71). -/
theorem emitFrom_eq_take_drop (h : Header) (p : List Byte) (i n : Nat) :
    emitFrom h p i n = ((headerBytes h ++ p).drop i).take n := by
  induction n generalizing i with
  | zero => rfl
  | succ n ih =>
    cases hb : muxByte h p i with
    | none =>
      have hend : (headerBytes h ++ p).length ≤ i := by
        rwa [muxByte_eq_getElem?, List.getElem?_eq_none_iff] at hb
      simp only [emitFrom, hb, List.drop_eq_nil_of_le hend, List.take_nil]
    | some b =>
      rw [muxByte_eq_getElem?] at hb
      simp only [emitFrom, muxByte_eq_getElem?, hb, ih]
      rw [List.drop_eq_getElem?_toList_append (i := i), hb]
      rfl

/-- Settles O6: the bytes one by one, and all of them as the frame's stretch from its start to its end. -/
theorem multiplexerEmitsTheFrame : Obligations.MultiplexerEmitsTheFrame := by
  intro h p
  refine ⟨congrArg some (toNat_hiByte h.da), congrArg some (toNat_loByte h.da), rfl,
    congrArg some (toNat_hiByte h.sa), congrArg some (toNat_loByte h.sa), rfl, fun i => ?_, ?_⟩
  · rw [Nat.add_comm]
    rfl
  · rw [emitFrom_eq_take_drop, List.drop_zero, List.take_of_length_le (by simp)]

/-! ### DECODE -/

theorem execDecode_of_splitFrame_some {f p : List Byte} {h : Header} (hf : splitFrame f = some (h, p)) (s : State) :
    execDecode f s = .next (returnOk (.fields h p) s) := by
  simp only [execDecode, decodeFrame, hf]

theorem execDecode_of_splitFrame_none {f : List Byte} (hf : splitFrame f = none) (s : State) :
    execDecode f s = .next (raiseError .decodingError s) := by
  simp only [execDecode, decodeFrame, hf]

/-- Settles O8: a frame splits into its fields and the rest exactly from six bytes on. -/
theorem decodeCompletes : Obligations.DecodeCompletes := by
  refine ⟨fun f s hshort => ?_, fun b0 b1 b2 b3 b4 b5 p s => ?_⟩
  · exact execDecode_of_splitFrame_none (splitFrame_of_short hshort) s
  · have hsplit : splitFrame (b0 :: b1 :: b2 :: b3 :: b4 :: b5 :: p) =
        some (⟨joinBytes b0 b1, b2, joinBytes b3 b4, b5⟩, p) := rfl
    rw [← joinBytes_eq_ofNat, ← joinBytes_eq_ofNat]
    exact execDecode_of_splitFrame_some hsplit s

/-! ### The header word -/

/-- In a concatenation the first part is the more significant (R8). -/
theorem toNat_append_eq_mul_add {m n : Nat} (x : BitVec m) (y : BitVec n) :
    (x ++ y).toNat = x.toNat * 2 ^ n + y.toNat := by
  rw [BitVec.toNat_append, ← Nat.shiftLeft_add_eq_or_of_lt y.isLt, Nat.shiftLeft_eq]

/-- The fields' places in the header word (R72). -/
theorem toNat_headerWord (h : Header) :
    (headerWord h).toNat = h.da.toNat * 2 ^ 32 + h.dOff.toNat * 2 ^ 24 + h.sa.toNat * 2 ^ 8 + h.sOff.toNat := by
  simp only [headerWord, toNat_append_eq_mul_add]
  ring

/-- A field of a word, as a number. -/
theorem toNat_extractLsb'_eq_div_mod {n : Nat} (w : BitVec n) (start len : Nat) :
    (w.extractLsb' start len).toNat = w.toNat / 2 ^ start % 2 ^ len := by
  rw [BitVec.extractLsb'_toNat, Nat.shiftRight_eq_div_pow]

/-- Reading the fields back from their places gives the header (R72). -/
theorem headerOfWord_headerWord (h : Header) : headerOfWord (headerWord h) = h := by
  obtain ⟨da, dOff, sa, sOff⟩ := h
  have hdOff := dOff.isLt
  have hsa := sa.isLt
  have hsOff := sOff.isLt
  simp only [headerOfWord, Header.mk.injEq, ← BitVec.toNat_inj, toNat_extractLsb'_eq_div_mod, toNat_headerWord]
  omega

/-- A part of a field is a part of the word, counted from the field's own place. -/
theorem extractLsb'_extractLsb'_of_fits {n len start' len' : Nat} (w : BitVec n) (start : Nat)
    (hfits : start' + len' ≤ len) :
    (w.extractLsb' start len).extractLsb' start' len' = w.extractLsb' (start + start') len' := by
  ext i hi
  have hin : start' + i < len := by omega
  simp [hin, Nat.add_assoc]

/-- The bytes of a word are the header bytes of the fields read from it (R70, R72). -/
theorem wordBytes_eq_headerBytes (w : BitVec 48) : wordBytes w = headerBytes (headerOfWord w) := by
  simp [wordBytes, headerBytes, headerOfWord, hiByte, loByte, extractLsb'_extractLsb'_of_fits]

/-- The word's bytes, byte 0 most significant, are the header's bytes (R72, R53). -/
theorem wordBytes_headerWord (h : Header) : wordBytes (headerWord h) = headerBytes h := by
  rw [wordBytes_eq_headerBytes, headerOfWord_headerWord]

/-- The four fields fill the word (R72). -/
theorem headerWord_headerOfWord (w : BitVec 48) : headerWord (headerOfWord w) = w := by
  apply BitVec.eq_of_toNat_eq
  simp only [toNat_headerWord, headerOfWord, toNat_extractLsb'_eq_div_mod]
  have := w.isLt
  omega

/-- Settles O12: the word's places, its bytes, and the two directions. -/
theorem headerWordLayout : Obligations.HeaderWordLayout :=
  ⟨fun h => ⟨toNat_headerWord h, wordBytes_headerWord h, headerOfWord_headerWord h⟩, headerWord_headerOfWord⟩

end Sys2Proof.Proofs
end

section
/-! SUPPORT. The codec (40_codec.md): its predicates, ENCODE's completion, and what encoding and decoding make of each
other. Settles O10, O11, O7, O1, O2 and O3. -/

namespace Sys2Proof.Proofs

open Sys2Proof.Machine

/-! ### The predicates -/

/-- Settles O1: the high band's floor is 850. -/
theorem bandSelectIsStrict : Obligations.BandSelectIsStrict :=
  ⟨bandHi_iff, by decide, by decide⟩

/-- Settles O2: the two floors are 850 and 410. -/
theorem rawOffsetIsTheFloorDifference : Obligations.RawOffsetIsTheFloorDifference :=
  ⟨fun _ => rfl, by decide, by decide, by decide, by decide⟩

/-- Settles O3, by the range of each check. -/
theorem rangeChecksAreExact : Obligations.RangeChecksAreExact := ⟨addrOk_iff, offOk_iff⟩

/-- The operands that pass both checks, as ranges (R78, R102). -/
theorem operandsOk_iff (a c : Int) : addrOk a = true ∧ offOk (rawOffset c) = true ↔
    0 ≤ a ∧ a ≤ 65535 ∧ ((410 ≤ c ∧ c ≤ 665) ∨ (851 ≤ c ∧ c ≤ 1105)) := by
  rw [addrOk_iff, encodableChannelsExactly.1, and_assoc]

/-! ### ENCODE -/

theorem encodeFrame_of_ok {a c : Int} (haddr : addrOk a = true) (hoff : offOk (rawOffset c) = true) (sa : Addr)
    (so : Off) (p : List Byte) : encodeFrame a c sa so p = some (headerBytes (headerOf a c sa so) ++ p) := by
  simp [encodeFrame, haddr, hoff]

theorem encodeFrame_of_not_ok {a c : Int} (hbad : ¬ (addrOk a = true ∧ offOk (rawOffset c) = true)) (sa : Addr)
    (so : Off) (p : List Byte) : encodeFrame a c sa so p = none := by
  simpa [encodeFrame] using hbad

theorem execEncode_of_some {a c : Int} {sa : Addr} {so : Off} {p f : List Byte}
    (hf : encodeFrame a c sa so p = some f) (s : State) : execEncode a c sa so p s = .next (returnOk (.frame f) s) := by
  simp only [execEncode, payloadFits_eq, if_true, hf]

theorem execEncode_of_none {a c : Int} {sa : Addr} {so : Off} {p : List Byte} (hf : encodeFrame a c sa so p = none)
    (s : State) : execEncode a c sa so p s = .next (raiseError .encodingError s) := by
  simp only [execEncode, payloadFits_eq, if_true, hf]

/-- Settles O7: the checks decide between the frame and EncodingError, and a response leaves the rest of the block. -/
theorem encodeCompletes : Obligations.EncodeCompletes := by
  intro a c sa so p s
  by_cases hok : addrOk a = true ∧ offOk (rawOffset c) = true
  · obtain ⟨haddr, hoff⟩ := hok
    rw [if_pos ((operandsOk_iff a c).mp ⟨haddr, hoff⟩)]
    have hdo : (if c > 850 then c - 850 else c - 410) = rawOffset c := (rawOffset_eq c).symm
    rw [hdo]
    exact execEncode_of_some (encodeFrame_of_ok haddr hoff sa so p) s
  · rw [if_neg (hok ∘ (operandsOk_iff a c).mpr)]
    exact execEncode_of_none (encodeFrame_of_not_ok hok sa so p) s

/-! ### Encoding and decoding undo each other -/

/-- Settles O10: splitting undoes the header's layout, and checked operands lose nothing in the header's fields. -/
theorem codecRoundTrip : Obligations.CodecRoundTrip := by
  intro a c sa so p haddr hoff
  obtain ⟨ha0, ha1⟩ := (addrOk_iff a).mp haddr
  obtain ⟨ho0, ho1⟩ := (offOk_iff (rawOffset c)).mp hoff
  refine ⟨_, headerOf a c sa so, encodeFrame_of_ok haddr hoff sa so p, splitFrame_headerBytes _ p, ?_, ?_, rfl, rfl⟩
  · rw [headerOf, toNat_ofInt_addr ha0 ha1, Int.toNat_of_nonneg ha0]
  · rw [headerOf, toNat_ofInt_off ho0 ho1, Int.toNat_of_nonneg ho0]

/-- The high byte of two joined bytes is the first (R8). -/
theorem hiByte_joinBytes (h l : Byte) : hiByte (joinBytes h l) = h :=
  BitVec.extractLsb'_append_eq_left

/-- The low byte of two joined bytes is the second (R8). -/
theorem loByte_joinBytes (h l : Byte) : loByte (joinBytes h l) = l :=
  BitVec.extractLsb'_append_eq_right

/-- A frame of at least the header's length has fields, and they lay out as its first bytes (R77, R114). -/
theorem splitFrame_of_long {f : List Byte} (hf : 6 ≤ f.length) :
    ∃ h p, splitFrame f = some (h, p) ∧ headerBytes h ++ p = f := by
  match f, hf with
  | b0 :: b1 :: b2 :: b3 :: b4 :: b5 :: p, _ =>
    exact ⟨_, p, rfl, by simp [headerBytes, hiByte_joinBytes, loByte_joinBytes]⟩

/-- Settles O11: laying out and splitting undo each other both ways, and each band holds at most one channel of an
offset. -/
theorem reassemblyRestoresFrame : Obligations.ReassemblyRestoresFrame := by
  refine ⟨fun f hf => splitFrame_of_long hf, splitFrame_headerBytes, fun h c => ?_⟩
  rw [rawOffset_eq]
  split <;> omega

end Sys2Proof.Proofs
end

section
/-! SUPPORT. The session operations (41_session.md): what CONSTRUCT, SEND and CLOSE do once taken, when they are held,
and how a SEND's write and settle interval end. Settles O21, O22, O23, O24, O25, O26, O27, O28, O29, O30, O32, O34,
O35, O36, O37, O50 and O51. -/

namespace Sys2Proof.Proofs

open Sys2Proof.Machine

/-! ### Where an operation is taken -/

/-- Outside a session, with no write under way, the block is ready and no session is live (R27, R148). -/
theorem ready_outside_session {s : State} (htx : s.tx = none) (hs : s.state = .unconfigured ∨ s.state = .closed) :
    busy s = false ∧ live s = false := by
  refine ⟨(busy_eq_false_iff s).mpr ⟨htx, ?_⟩, (live_eq_false_iff s).mpr hs⟩
  rcases hs with h | h <;> simp [h]

/-- In OPEN, with no write under way, the block is ready and a session is live (R27, R148). -/
theorem ready_in_session {s : State} (htx : s.tx = none) (hs : s.state = .open) : busy s = false ∧ live s = true :=
  ⟨(busy_eq_false_iff s).mpr ⟨htx, by simp [hs]⟩, (live_iff s).mpr (.inl hs)⟩

theorem busy_of_write {s : State} {f : List Byte} (htx : s.tx = some f) : busy s = true :=
  (busy_iff s).mpr (.inl (by simp [htx]))

theorem busy_of_settling {s : State} (hs : s.state = .settling) : busy s = true := (busy_iff s).mpr (.inr hs)

/-- The block is ready for a session operation exactly while no SEND is unreturned (R148, R149). -/
theorem cmdReady_of_sessionOp {i : Instr} (hi : sessionOp i = true) (s : State) : cmdReady i s = !busy s := by
  cases i with
  | construct sa so tp => rfl
  | send a c p => rfl
  | close => rfl
  | encode a c sa so p => cases hi
  | decode f => cases hi
  | frameHeader h => cases hi

/-- Settles O50, by what an instruction that goes on can have done: a held one is an agent's step, which leaves the
command port, and every other outcome takes the command. -/
theorem readyMeansTaken : Obligations.ReadyMeansTaken := by
  intro i s t h
  have htaken (hr : cmdReady i s = true) (ht : t.inputs = s.inputs.tail) :
      t.inputs = if cmdReady i s then s.inputs.tail else s.inputs := by rw [if_pos hr, ht]
  obtain ⟨-, hr, rfl⟩ | ⟨hb, rfl, hi⟩ | ⟨sa, so, rfl, hb, -, rfl⟩ | ⟨rfl, hb, -, rfl⟩ |
    ⟨a, c, p, f, rfl, hb, -, -, rfl⟩ | ⟨d, rfl, hi⟩ | ⟨e, rfl, hr⟩ := exec_cases h
  · simpa [hr, hold] using agentStep_inputs s
  · obtain ⟨rfl, -⟩ | ⟨sa, so, tp, rfl, -⟩ := hi <;> exact htaken (by simp [cmdReady, hb]) rfl
  · exact htaken (by simp [cmdReady, hb]) rfl
  · exact htaken (by simp [cmdReady, hb]) rfl
  · exact htaken (by simp [cmdReady, hb]) rfl
  · obtain ⟨a, c, sa, so, p, rfl⟩ | ⟨f, rfl⟩ := hi <;> exact htaken rfl rfl
  · exact htaken hr rfl

/-! ### CONSTRUCT -/

/-- Settles O21: outside a session a CONSTRUCT is taken, and the transport is present. -/
theorem constructOpensSession : Obligations.ConstructOpensSession := by
  intro sa so s htx hs
  obtain ⟨hb, hl⟩ := ready_outside_session htx hs
  have hexec : exec (.construct sa so true) s = .next (returnOk .nothing (openSession sa so s)) := by
    simp [exec, execConstruct, hb, hl]
  exact hexec

/-- Settles O22: outside a session a CONSTRUCT is taken, and its error leaves STATE and the transport as they were, so
that the next one opens (`constructOpensSession`). -/
theorem constructWithoutTransport : Obligations.ConstructWithoutTransport := by
  intro sa so s htx hs
  obtain ⟨hb, hl⟩ := ready_outside_session htx hs
  have hexec : exec (.construct sa so false) s = .next (raiseError .transportOpenError s) := by
    simp [exec, execConstruct, hb, hl]
  exact ⟨_, hexec, rfl, fun sa' so' => ⟨_, constructOpensSession sa' so' _ htx hs, rfl, rfl, rfl⟩⟩

/-- Settles O23: a CONSTRUCT on a live session is taken as no operation. -/
theorem constructOnLiveSessionIgnored : Obligations.ConstructOnLiveSessionIgnored := by
  intro sa so tp s htx hs
  obtain ⟨hb, hl⟩ := ready_in_session htx hs
  have hexec : exec (.construct sa so tp) s = .next (ignoreOp s) := by simp [exec, execConstruct, hb, hl]
  exact ⟨_, hexec⟩

/-! ### CLOSE -/

/-- Settles O36: in OPEN a CLOSE is taken, and CLOSED is no live session. -/
theorem closeEndsSession : Obligations.CloseEndsSession := by
  intro s htx hs
  obtain ⟨hb, hl⟩ := ready_in_session htx hs
  have hexec : exec .close s = .next (returnOk .nothing (closeSession s)) := by simp [exec, execClose, hb, hl]
  exact ⟨_, hexec, rfl, rfl⟩

/-- Settles O37: outside a session a CLOSE is taken as no operation. -/
theorem closeOutsideSessionIgnored : Obligations.CloseOutsideSessionIgnored := by
  intro s htx hs
  obtain ⟨hb, hl⟩ := ready_outside_session htx hs
  have hexec : exec .close s = .next (ignoreOp s) := by simp [exec, execClose, hb, hl]
  exact ⟨_, hexec⟩

/-! ### SEND up to its write -/

/-- Settles O24: operands in the ranges pass both checks, and a SEND whose frame there is hands it over. -/
theorem sendHandsTheFrameOver : Obligations.SendHandsTheFrameOver := by
  intro a c p s htx hs ha0 ha1 hc
  obtain ⟨haddr, hoff⟩ := (operandsOk_iff a c).mpr ⟨ha0, ha1, hc⟩
  have hdo : (if c > 850 then c - 850 else c - 410) = rawOffset c := (rawOffset_eq c).symm
  rw [hdo]
  exact execSend_startsWrite htx hs (encodeFrame_of_ok haddr hoff s.saddr s.soff p)

/-- Settles O25: operands out of the ranges fail a check, so there is no frame to hand over. -/
theorem sendRaisesEncodingError : Obligations.SendRaisesEncodingError := by
  intro a c p s htx hs hbad
  obtain ⟨hb, hl⟩ := ready_in_session htx hs
  have hf : encodeFrame a c s.saddr s.soff p = none :=
    encodeFrame_of_not_ok (hbad ∘ (operandsOk_iff a c).mp) s.saddr s.soff p
  have hexec : exec (.send a c p) s = .next (raiseError .encodingError s) := by simp [exec, execSend, hb, hl, hf]
  exact hexec

/-- Settles O26: the session is looked at before the operands. -/
theorem sendWithoutSession : Obligations.SendWithoutSession := by
  intro a c p s htx hs
  obtain ⟨hb, hl⟩ := ready_outside_session htx hs
  have hexec : exec (.send a c p) s = .next (raiseError .sessionClosedError s) := by simp [exec, execSend, hb, hl]
  exact hexec

/-! ### The transport's step -/

/-- An answer takes all of the frame and is OK, or takes some of it and is TransportWriteError (R140, R141). -/
theorem write_outcome (f : List Byte) (w : WriteAnswer) : bytesTaken f w ≤ f.length ∧
    (writeStatus w = 0 ∧ bytesTaken f w = f.length ∨ writeStatus w = 3) := by
  cases w with
  | ok => exact ⟨le_rfl, .inl ⟨rfl, rfl⟩⟩
  | fail k => exact ⟨min_le_right k f.length, .inr rfl⟩

/-- An unlisted answer acts as the free value would if it were listed (R33, log 4). -/
theorem agentStep_of_unlisted_answer {s : State} {f : List Byte} (htx : s.tx = some f) (ha : s.answers = []) :
    agentStep s = agentStep { s with answers := [Config.freeAnswer s.draws], draws := s.draws + 1 } := by
  simp [agentStep, htx, transportStep, nextAnswer, dropAnswer, ha]

/-- Where no answer is listed the write ends in one of the two outcomes all the same (R140, R141, log 4). -/
theorem agentStep_free_outcome {s : State} {f : List Byte} (htx : s.tx = some f) (ha : s.answers = []) :
    ∃ (k : Nat) (st : BitVec 3), k ≤ f.length ∧ (st = 0 ∧ k = f.length ∨ st = 3) ∧
      agentStep s = { s with
        wire := s.wire ++ f.take k
        marks := s.marks ++ [⟨s.wire.length, s.wire.length + k⟩]
        bidx := k
        tx := none
        state := .settling
        pending := some st
        draws := s.draws + 1 } := by
  obtain ⟨hk, hst⟩ := write_outcome f (Config.freeAnswer s.draws)
  refine ⟨_, _, hk, hst, ?_⟩
  have hlisted := agentStep_of_listed_answer
    (s := { s with answers := [Config.freeAnswer s.draws], draws := s.draws + 1 }) htx rfl
  rw [agentStep_of_unlisted_answer htx ha, hlisted, ha]

/-- Settles O27: nothing goes before the transport, and a listed `ok` takes all of the frame. -/
theorem transportAcceptsTheWrite : Obligations.TransportAcceptsTheWrite := by
  intro f ws s hw htx ha
  rw [step_waiting (busy_of_write htx) hw, agentStep_of_listed_answer htx ha]
  simp [bytesTaken, writeStatus]

/-- Settles O28: nothing goes before the transport, and a listed failure takes its `k` bytes, of which the frame has
enough. -/
theorem transportFailsAfterAnyPrefix : Obligations.TransportFailsAfterAnyPrefix := by
  intro f k ws s hk hw htx ha
  have htaken : bytesTaken f (.fail k) = k := min_eq_left hk
  rw [step_waiting (busy_of_write htx) hw, agentStep_of_listed_answer htx ha, htaken]
  rfl

/-- Settles O29: nothing goes before the transport, and its free answer has one of the two outcomes. -/
theorem freeAnswerIsOneOfTheTwo : Obligations.FreeAnswerIsOneOfTheTwo := by
  intro f s hw htx ha
  obtain ⟨k, st, hk, hst, hagent⟩ := agentStep_free_outcome htx ha
  refine ⟨k, st, hk, hst, ?_⟩
  rw [step_waiting (busy_of_write htx) hw, hagent]

/-! ### The timer's step and the return -/

/-- Settles O30: nothing goes before the timer, and a result is pending. -/
theorem timerStepReturnsTheSend : Obligations.TimerStepReturnsTheSend := by
  intro st s hw htx hs hp
  rw [step_waiting (busy_of_settling hs) hw, agentStep_of_pending htx hs hp]

/-- Settles O32, by the three steps of `run_send`. -/
theorem sendRunsToItsReturn : Obligations.SendRunsToItsReturn := by
  intro a c p f x ys w ws s htx hs hx hw hw' hd hf ha
  exact run_send htx hs hx hw hw' hd hf ha

/-! ### Session operations held -/

/-- Settles O34: the held operation is the timer's step, which leaves it presented and the block ready. -/
theorem settlingHoldsSessionOperations : Obligations.SettlingHoldsSessionOperations := by
  intro i x xs st s hi hx hd htx hs hp
  have hb : busy s = true := busy_of_settling hs
  refine ⟨?_, by simp [cmdReady_of_sessionOp hi, hb], ?_, step_of_decode_ok hx hd⟩
  · rw [exec_hold hi hb, agentStep_of_pending htx hs hp]
  · simp [cmdReady_of_sessionOp hi, busy, htx]

/-- Settles O35: the held operation is the transport's step. -/
theorem writeHoldsSessionOperations : Obligations.WriteHoldsSessionOperations := by
  intro i f s hi htx
  have hb : busy s = true := busy_of_write htx
  refine ⟨by simp [cmdReady_of_sessionOp hi, hb], fun w ws ha => ?_, fun ha => ?_⟩
  · rw [exec_hold hi hb, agentStep_of_listed_answer htx ha]
  · obtain ⟨k, st, hk, hst, hagent⟩ := agentStep_free_outcome htx ha
    exact ⟨k, st, hk, hst, by rw [exec_hold hi hb, hagent]⟩

/-! ### An unreturned SEND -/

/-- A write ends in SETTLING with OK or TransportWriteError pending, and returns nothing yet (R134, R143). -/
theorem agentStep_ends_write {s : State} {f : List Byte} (htx : s.tx = some f) :
    ∃ st : BitVec 3, (st = 0 ∨ st = 3) ∧ (agentStep s).tx = none ∧ (agentStep s).state = .settling ∧
      (agentStep s).pending = some st ∧ (agentStep s).results = s.results := by
  cases ha : s.answers with
  | nil =>
    obtain ⟨k, st, -, hst, hagent⟩ := agentStep_free_outcome htx ha
    rw [hagent]
    exact ⟨st, hst.imp_left And.left, rfl, rfl, rfl, rfl⟩
  | cons w ws =>
    rw [agentStep_of_listed_answer htx ha]
    exact ⟨writeStatus w, (write_outcome f w).2.imp_left And.left, rfl, rfl, rfl, rfl⟩

/-- In `t` the SEND that had not returned in `s` has, with `st`: the session is open and ready, and a run with nothing
presented is over. -/
structure ReturnedWith (st : BitVec 3) (s t : State) : Prop where
  open_ : t.state = .open
  ready : busy t = false
  run_over : s.inputs = [] → runOver t = true
  results : t.results = s.results ++ [⟨st, .nothing⟩]

/-- In SETTLING one step returns the SEND (R142). -/
theorem settling_returns {s : State} {st : BitVec 3} (hw : headWaits s.inputs = true) (htx : s.tx = none)
    (hs : s.state = .settling) (hp : s.pending = some st) : ∃ t, step s = .next t ∧ ReturnedWith st s t := by
  refine ⟨_, timerStepReturnsTheSend st s hw htx hs hp, rfl, by simp [busy, htx], fun hin => ?_, rfl⟩
  simp [runOver, busy, htx, hin, afterWait]

/-- With a write under way two steps return the SEND (R134, R142). -/
theorem write_returns {s : State} {f : List Byte} (htx : s.tx = some f) (hw : headWaits s.inputs = true)
    (hw' : headWaits (afterWait s.inputs) = true) :
    ∃ t st, core.run 2 s = .next t ∧ ReturnedWith st s t ∧ (st = 0 ∨ st = 3) := by
  obtain ⟨st, hst, htx', hs', hp', hres⟩ := agentStep_ends_write htx
  have hwrite := step_waiting (busy_of_write htx) hw
  obtain ⟨t, htimer, hopen, hready, hover, hresults⟩ :=
    settling_returns (s := { agentStep s with inputs := afterWait s.inputs }) hw' htx' hs' hp'
  have hrun : core.run 2 s = .next t := (run_succ_of_step 1 hwrite).trans (run_succ_of_step 0 htimer)
  refine ⟨t, st, hrun, ⟨hopen, hready, fun hin => hover ?_, ?_⟩, hst⟩
  · simp [hin, afterWait]
  · rw [hresults, hres]

/-- Settles O51: an unreturned SEND is writing (`write_returns`) or settling (`settling_returns`), and there the
invariant says which statuses are pending. -/
theorem unreturnedSendReturns : Obligations.UnreturnedSendReturns := by
  intro s hI hb hw hw'
  cases htx : s.tx with
  | some f =>
    obtain ⟨t, st, hrun, hret, hst⟩ := write_returns htx hw hw'
    exact ⟨2, t, st, le_rfl, hrun, hret.open_, hret.ready, hret.run_over, hret.results, hst⟩
  | none =>
    have hs : s.state = .settling := ((busy_iff s).mp hb).resolve_left (by simp [htx])
    obtain ⟨st, hp⟩ := Option.isSome_iff_exists.mp (hI.pending_settling.mpr hs)
    obtain ⟨t, hstep, hret⟩ := settling_returns hw htx hs hp
    exact ⟨1, t, st, one_le_two, run_succ_of_step 0 hstep, hret.open_, hret.ready, hret.run_over, hret.results,
      hI.pending_status st hp⟩

end Sys2Proof.Proofs
end

section
/-! SUPPORT. The text adapter (42_text_adapter.md): what saturation leaves of an operand, where a line is cut, the
form of its integers, the bytes of its message, and the SEND it stands for. Settles O13, O54, O55, O56 and O57. -/

namespace Sys2Proof.Proofs

open Sys2Proof.Machine

/-! ### Saturation -/

/-- An operand well within the port's bounds, before or after saturation, is carried unchanged (D1). -/
theorem toInt_saturate_of_small {v : Int}
    (hv : (0 ≤ v ∧ v ≤ 65535) ∨ (0 ≤ (saturate v).toInt ∧ (saturate v).toInt ≤ 65535)) : (saturate v).toInt = v := by
  obtain h | ⟨hlow, hsat⟩ | ⟨hhigh, hsat⟩ := saturate_cases v
  · exact h
  · omega
  · omega

/-- Operands that pass both checks, before or after saturation, are carried unchanged (R102, R103, D1). -/
theorem toInt_saturate_of_operandsOk {a c : Int}
    (hok : (addrOk a = true ∧ offOk (rawOffset c) = true) ∨
      (addrOk (saturate a).toInt = true ∧ offOk (rawOffset (saturate c).toInt) = true)) :
    (saturate a).toInt = a ∧ (saturate c).toInt = c := by
  simp only [operandsOk_iff] at hok
  exact ⟨toInt_saturate_of_small (by omega), toInt_saturate_of_small (by omega)⟩

/-- Settles O13: operands that pass the checks on either side are carried unchanged, and where neither side passes
there is no frame. -/
theorem saturationChangesNoEncoding : Obligations.SaturationChangesNoEncoding := by
  intro a c sa so p
  by_cases hok : (addrOk a = true ∧ offOk (rawOffset c) = true) ∨
      (addrOk (saturate a).toInt = true ∧ offOk (rawOffset (saturate c).toInt) = true)
  · obtain ⟨ha, hc⟩ := toInt_saturate_of_operandsOk hok
    rw [ha, hc]
  · obtain ⟨hraw, hsat⟩ := not_or.mp hok
    rw [encodeFrame_of_not_ok hraw, encodeFrame_of_not_ok hsat]

/-! ### Where a line is cut -/

theorem parseLine_of_no_comma {t : List Char} (h : ',' ∉ t) : parseLine t = none := by
  simp only [parseLine, splitComma_none h]

theorem parseLine_of_one_comma {d r : List Char} (hd : ',' ∉ d) (hr : ',' ∉ r) : parseLine (d ++ ',' :: r) = none := by
  simp only [parseLine, splitComma_append r hd, splitComma_none hr]

/-- Settles O54: each cut is at the first comma of what is left, and with fewer than two commas one cut is missing. -/
theorem lineSplitsAtTwoCommas : Obligations.LineSplitsAtTwoCommas := by
  refine ⟨fun d q m hd hq => ?_, fun t hcount => ?_⟩
  · cases ha : intVal d <;> cases hc : intVal q <;>
      simp only [parseLine, splitComma_append _ hd, splitComma_append _ hq, ha, hc]
  · by_cases hmem : ',' ∈ t
    · obtain ⟨d, r, rfl, hd⟩ := List.eq_append_cons_of_mem hmem
      have hr : ',' ∉ r := by
        rw [← List.count_eq_zero]
        rw [List.count_append, List.count_cons_self] at hcount
        omega
      exact parseLine_of_one_comma hd hr
    · exact parseLine_of_no_comma hmem

/-! ### Spaces around an integer -/

theorem dropSpaces_replicate_append (n : Nat) (t : List Char) :
    dropSpaces (List.replicate n ' ' ++ t) = dropSpaces t := by
  induction n with
  | zero => rfl
  | succ n ih => simpa [List.replicate_succ, dropSpaces] using ih

theorem dropSpaces_append_of_no_space {u : List Char} (hne : u ≠ []) (hu : ' ' ∉ u) (t : List Char) :
    dropSpaces (u ++ t) = u ++ t := by
  cases u with
  | nil => exact absurd rfl hne
  | cons c u =>
    have hc : c ≠ ' ' := fun h => hu (h ▸ List.mem_cons_self)
    simp [dropSpaces, hc]

/-- What `dropSpaces` drops is spaces. -/
theorem exists_eq_replicate_append_dropSpaces (t : List Char) :
    ∃ n, t = List.replicate n ' ' ++ dropSpaces t := by
  induction t with
  | nil => exact ⟨0, rfl⟩
  | cons c t ih =>
    by_cases hc : c = ' '
    · obtain ⟨n, hn⟩ := ih
      exact ⟨n + 1, by simpa [dropSpaces, hc, List.replicate_succ] using hn⟩
    · exact ⟨0, by simp [dropSpaces, hc]⟩

/-- Trimming takes off the spaces around a text that has none of its own (R162). -/
theorem trimSpaces_padded {u : List Char} (hne : u ≠ []) (hu : ' ' ∉ u) (n m : Nat) :
    trimSpaces (List.replicate n ' ' ++ u ++ List.replicate m ' ') = u := by
  have hrev := dropSpaces_append_of_no_space (u := u.reverse) (by simpa using hne) (by simpa using hu) []
  rw [List.append_nil] at hrev
  rw [trimSpaces, List.append_assoc, dropSpaces_replicate_append, dropSpaces_append_of_no_space hne hu,
    List.reverse_append, List.reverse_replicate, dropSpaces_replicate_append, hrev, List.reverse_reverse]

/-- What trimming takes off is spaces at either end (R162). -/
theorem exists_padding_of_trimSpaces (t : List Char) :
    ∃ n m, t = List.replicate n ' ' ++ trimSpaces t ++ List.replicate m ' ' := by
  obtain ⟨n, hn⟩ := exists_eq_replicate_append_dropSpaces t
  obtain ⟨m, hm⟩ := exists_eq_replicate_append_dropSpaces (dropSpaces t).reverse
  have htrail : dropSpaces t = trimSpaces t ++ List.replicate m ' ' := by
    simpa [trimSpaces] using congrArg List.reverse hm
  exact ⟨n, m, by rw [List.append_assoc, ← htrail, ← hn]⟩

/-! ### Digits and sign -/

theorem digitVal_digitChar {d : Nat} (hd : d < 10) : digitVal (digitChar d) = some d := by
  interval_cases d <;> rfl

/-- The characters read as digits are the ten digit characters (R162). -/
theorem digitVal_eq_some_iff {c : Char} {d : Nat} : digitVal c = some d ↔ d < 10 ∧ c = digitChar d := by
  constructor
  · intro h
    obtain ⟨⟨hlow, hhigh⟩, hd⟩ : (48 ≤ c.toNat ∧ c.toNat ≤ 57) ∧ c.toNat - 48 = d := by
      simpa only [digitVal, Option.ite_none_right_eq_some, Option.some.injEq] using h
    have hchar : 48 + d = c.toNat := by omega
    exact ⟨by omega, by rw [digitChar, hchar, Char.ofNat_toNat]⟩
  · rintro ⟨hd, rfl⟩
    exact digitVal_digitChar hd

/-- A digit's character is no character that is no digit: no space and no sign (R162). -/
theorem not_mem_map_digitChar {c : Char} (hc : digitVal c = none) {ds : List Nat} (hds : ∀ d ∈ ds, d < 10) :
    c ∉ ds.map digitChar := by
  intro hmem
  obtain ⟨d, hd, rfl⟩ := List.mem_map.mp hmem
  rw [digitVal_digitChar (hds d hd)] at hc
  cases hc

/-- After the digits `es`, least significant first, a text is read exactly when it is digits too, and then as the
number of all of them (R162). -/
theorem digitsVal_eq_some_iff {t : List Char} {es : List Nat} {k : Nat} :
    digitsVal (Nat.ofDigits 10 es) t = some k ↔
      ∃ ds : List Nat, (∀ d ∈ ds, d < 10) ∧ t = ds.map digitChar ∧ k = Nat.ofDigits 10 (ds.reverse ++ es) := by
  constructor
  · intro h
    induction t generalizing es with
    | nil => exact ⟨[], List.forall_mem_nil _, rfl, (Option.some.inj h).symm⟩
    | cons c t ih =>
      cases hc : digitVal c with
      | none => simp [digitsVal, hc] at h
      | some e =>
        obtain ⟨he, rfl⟩ := digitVal_eq_some_iff.mp hc
        have hrest : digitsVal (Nat.ofDigits 10 (e :: es)) t = some k := by
          simpa [digitsVal, hc, Nat.ofDigits_cons, Nat.add_comm] using h
        obtain ⟨ds, hds, rfl, rfl⟩ := ih hrest
        exact ⟨e :: ds, List.forall_mem_cons.mpr ⟨he, hds⟩, rfl, by simp⟩
  · rintro ⟨ds, hds, rfl, rfl⟩
    induction ds generalizing es with
    | nil => rfl
    | cons d ds ih =>
      obtain ⟨hd, hds⟩ := List.forall_mem_cons.mp hds
      simpa [digitsVal, digitVal_digitChar hd, Nat.ofDigits_cons, Nat.add_comm] using ih (es := d :: es) hds

/-- A text is read as a natural number exactly when it is one or more digits, and then as their number (R162). -/
theorem natVal_eq_some_iff {t : List Char} {k : Nat} :
    natVal t = some k ↔
      ∃ ds : List Nat, ds ≠ [] ∧ (∀ d ∈ ds, d < 10) ∧ t = ds.map digitChar ∧ k = Nat.ofDigits 10 ds.reverse := by
  cases t with
  | nil => simp [natVal, eq_comm]
  | cons c t =>
    have hread := digitsVal_eq_some_iff (t := c :: t) (es := []) (k := k)
    simp only [Nat.ofDigits_nil, List.append_nil] at hread
    rw [natVal, hread]
    constructor
    · rintro ⟨ds, hds, ht, hk⟩
      have hne : ds ≠ [] := by
        rintro rfl
        cases ht
      exact ⟨ds, hne, hds, ht, hk⟩
    · rintro ⟨ds, -, h⟩
      exact ⟨ds, h⟩

/-- The text `u` is an integer literal of value `v` with no spaces around it (R162). -/
def SignedLiteral (u : List Char) (v : Int) : Prop :=
  ∃ (sign : List Char) (ds : List Nat),
    (sign = [] ∨ sign = ['+'] ∨ sign = ['-']) ∧ ds ≠ [] ∧ (∀ d ∈ ds, d < 10) ∧
    u = sign ++ ds.map digitChar ∧
    v = (if sign = ['-'] then -1 else 1) * ((Nat.ofDigits 10 ds.reverse : Nat) : Int)

/-- An integer literal is one without spaces, with spaces around it (R162). -/
theorem intLiteral_iff_padded {t : List Char} {v : Int} :
    IntLiteral t v ↔
      ∃ (n m : Nat) (u : List Char), SignedLiteral u v ∧ t = List.replicate n ' ' ++ u ++ List.replicate m ' ' := by
  constructor
  · rintro ⟨n, m, sign, ds, hsign, hne, hds, rfl, hv⟩
    exact ⟨n, m, _, ⟨sign, ds, hsign, hne, hds, rfl, hv⟩, by simp⟩
  · rintro ⟨n, m, u, ⟨sign, ds, hsign, hne, hds, rfl, hv⟩, rfl⟩
    exact ⟨n, m, sign, ds, hsign, hne, hds, by simp, hv⟩

theorem SignedLiteral.ne_nil {u : List Char} {v : Int} (h : SignedLiteral u v) : u ≠ [] := by
  obtain ⟨sign, ds, -, hne, -, rfl, -⟩ := h
  simp [hne]

theorem SignedLiteral.no_space {u : List Char} {v : Int} (h : SignedLiteral u v) : ' ' ∉ u := by
  obtain ⟨sign, ds, hsign, -, hds, rfl, -⟩ := h
  have hdigits : ' ' ∉ ds.map digitChar := not_mem_map_digitChar (by decide) hds
  rw [List.mem_append, not_or]
  refine ⟨?_, hdigits⟩
  rcases hsign with rfl | rfl | rfl <;> decide

/-- A literal is a sign and a text that is read as a natural number (R162). -/
theorem signedLiteral_iff {u : List Char} {v : Int} :
    SignedLiteral u v ↔ ∃ (sign t : List Char) (k : Nat),
      (sign = [] ∨ sign = ['+'] ∨ sign = ['-']) ∧ natVal t = some k ∧ u = sign ++ t ∧
      v = (if sign = ['-'] then -1 else 1) * (k : Int) := by
  constructor
  · rintro ⟨sign, ds, hsign, hne, hds, hu, hv⟩
    exact ⟨sign, _, _, hsign, natVal_eq_some_iff.mpr ⟨ds, hne, hds, rfl, rfl⟩, hu, hv⟩
  · rintro ⟨sign, t, k, hsign, hk, rfl, rfl⟩
    obtain ⟨ds, hne, hds, rfl, rfl⟩ := natVal_eq_some_iff.mp hk
    exact ⟨sign, ds, hsign, hne, hds, rfl, rfl⟩

/-- A text of digits has no sign, so it is read as it stands (R162). -/
theorem signedVal_of_natVal {t : List Char} {k : Nat} (hk : natVal t = some k) : signedVal t = some (k : Int) := by
  obtain ⟨ds, -, hds, ht, -⟩ := natVal_eq_some_iff.mp hk
  have hplus : '+' ∉ t := ht ▸ not_mem_map_digitChar (by decide) hds
  have hminus : '-' ∉ t := ht ▸ not_mem_map_digitChar (by decide) hds
  cases t with
  | nil => cases hk
  | cons c t =>
    rw [List.mem_cons, not_or] at hplus hminus
    simp [signedVal, Ne.symm hplus.1, Ne.symm hminus.1, hk]

/-- A text is read as a signed number exactly when it is a literal of it, by its sign (R162). -/
theorem signedVal_eq_some_iff {u : List Char} {v : Int} : signedVal u = some v ↔ SignedLiteral u v := by
  rw [signedLiteral_iff]
  constructor
  · intro h
    cases u with
    | nil => cases h
    | cons c t =>
      by_cases hplus : c = '+'
      · subst hplus
        obtain ⟨k, hk, rfl⟩ := Option.map_eq_some_iff.mp h
        exact ⟨['+'], t, k, .inr (.inl rfl), hk, rfl, by simp⟩
      by_cases hminus : c = '-'
      · subst hminus
        obtain ⟨k, hk, rfl⟩ := Option.map_eq_some_iff.mp h
        exact ⟨['-'], t, k, .inr (.inr rfl), hk, rfl, by simp⟩
      · rw [signedVal, if_neg hplus, if_neg hminus] at h
        obtain ⟨k, hk, rfl⟩ := Option.map_eq_some_iff.mp h
        exact ⟨[], c :: t, k, .inl rfl, hk, rfl, by simp⟩
  · rintro ⟨sign, t, k, hsign, hk, rfl, rfl⟩
    rcases hsign with rfl | rfl | rfl
    · simpa using signedVal_of_natVal hk
    · simp [signedVal, hk]
    · simp [signedVal, hk]

/-- Settles O55: trimming leaves the literal without its spaces, and that is read by its sign and digits. -/
theorem lineIntegerSyntax : Obligations.LineIntegerSyntax := by
  intro t v
  rw [intLiteral_iff_padded, intVal, signedVal_eq_some_iff]
  constructor
  · intro hlit
    obtain ⟨n, m, ht⟩ := exists_padding_of_trimSpaces t
    exact ⟨n, m, trimSpaces t, hlit, ht⟩
  · rintro ⟨n, m, u, hlit, rfl⟩
    rwa [trimSpaces_padded hlit.ne_nil hlit.no_space]

/-! ### The message's bytes -/

/-- The two encoders write a character of each length with the same lead and continuation bytes (R163, log 22). -/
theorem utf8Char_toNat (c : Char) : (utf8Char c).map BitVec.toNat = (String.utf8EncodeChar c).map UInt8.toNat := by
  have hmax : c.toNat ≤ 1114111 := c.toNat_le_max
  have hval : c.val.toNat = c.toNat := rfl
  simp only [utf8Char, String.utf8EncodeChar, hval]
  split_ifs <;>
    simp only [List.map_cons, List.map_nil, BitVec.toNat_ofNat, UInt8.toNat_ofNat', List.cons.injEq, and_true] <;>
    omega

/-- Settles O56: character by character (`utf8Char_toNat`), and a message's bytes are its characters' by definition. -/
theorem messageBytesAreUtf8 : Obligations.MessageBytesAreUtf8 :=
  ⟨utf8Char_toNat, rfl, fun _ _ => rfl⟩

/-! ### The SEND of a line -/

/-- SEND looks at its integers in making the frame only, so saturating them changes nothing of it (D1, R164). -/
theorem exec_send_saturate (a c : Int) (p : List Byte) (s : State) :
    exec (.send (saturate a).toInt (saturate c).toInt p) s = exec (.send a c p) s := by
  simp only [exec, execSend, saturationChangesNoEncoding a c]

/-- Settles O57: a malformed line is rejected as such and taken, and any other decodes to its SEND with the integers
saturated. -/
theorem linePerformsItsSend : Obligations.LinePerformsItsSend := by
  intro t xs s hx
  cases hparse : parseLine t with
  | none =>
    have hd : decode (.line t) = .error .malformedLine := by simp only [decode, hparse]
    have hstep : step s = .next (accept s) := step_of_decode_error hx hd
    rw [hstep, accept_of_inputs_cons hx]
  | some e =>
    obtain ⟨a, c, p⟩ := e
    have hd : decode (.line t) = .ok (.send (saturate a).toInt (saturate c).toInt p) := by simp only [decode, hparse]
    exact (step_of_decode_ok hx hd).trans (exec_send_saturate a c p s)

end Sys2Proof.Proofs
end

section
/-! SUPPORT. The exceptions (60_exceptions.md): no step faults, a step returns at most one result, and the status of an
operation that returns at once. Settles O46, O48 and O49. -/

namespace Sys2Proof.Proofs

open Sys2Proof.Machine

/-! ### Faults and results of a step -/

/-- Settles O46: a step that does not go on is the refusal of a bare frame. -/
theorem noStepFaults : Obligations.NoStepFaults := by
  intro s r hfault
  obtain ⟨t, ht⟩ | ⟨hbare, -⟩ := step_next_or_bareFrame s
  · rw [ht] at hfault
    cases hfault
  · rw [hbare] at hfault
    cases hfault

/-- From `s` to `t` one operation at most returned, and no result was withdrawn. -/
def ReturnsAtMostOne (s t : State) : Prop := t.results = s.results ∨ ∃ r, t.results = s.results ++ [r]

/-- Of the agents only the timer returns a result, the pending one (R142). -/
theorem agentStep_returnsAtMostOne (s : State) : ReturnsAtMostOne s (agentStep s) := by
  obtain ⟨f, n, st, -, -, -, h⟩ | ⟨st, -, -, -, h⟩ | ⟨-, -, -, h⟩ | ⟨-, h⟩ := agentStep_effect s
  · exact .inl (by simp [h])
  · exact .inr ⟨⟨st, .nothing⟩, by simp [h]⟩
  · exact .inl (by simp [h])
  · exact .inl (by simp [h])

/-- Settles O48, by the kinds of effect: each but a reset returns one result, or none. -/
theorem atMostOneResultPerStep : Obligations.AtMostOneResultPerStep := by
  intro s t h hreset
  cases step_effect h with
  | result h =>
    obtain rfl | rfl | ⟨d, rfl⟩ | ⟨e, rfl⟩ := h
    · exact .inl rfl
    · exact .inr ⟨_, ignoreOp_results s⟩
    · exact .inr ⟨_, returnOk_results d s⟩
    · exact .inr ⟨_, raiseError_results e s⟩
  | agent u hu h =>
    subst h
    obtain rfl | rfl := hu
    · exact agentStep_returnsAtMostOne u
    · exact agentStep_returnsAtMostOne (accept s)
  | opened x xs hx sa so hd hb hl h => exact .inr ⟨⟨statusCode .ok, .nothing⟩, by simp [h]⟩
  | closed x xs hx hd hb hl h => exact .inr ⟨⟨statusCode .ok, .nothing⟩, by simp [h]⟩
  | started x xs hx a c p f hd hb hl hf h => exact .inl (by simp [h])
  | reset k xs hx h => exact absurd (by simp [hx]) (hreset k)

/-! ### Statuses returned at once -/

theorem busy_eq_false_of_cmdReady {i : Instr} {s : State} (hi : sessionOp i = true) (hr : cmdReady i s = true) :
    busy s = false := by
  simpa [cmdReady_of_sessionOp hi] using hr

/-- An outcome known to append `⟨st, d⟩` to the results appended a result of status `st`. -/
theorem status_of_outcome {o : Host.Outcome State Fault Refusal} {s t u : State} {r : Response} {st : BitVec 3}
    {d : ResultData} (ht : o = .next t) (hr : t.results = s.results ++ [r]) (hu : o = .next u)
    (hres : u.results = s.results ++ [⟨st, d⟩]) : r.status = st := by
  obtain rfl : t = u := Host.Outcome.next.inj (ht.symm.trans hu)
  have hlast : [r] = [⟨st, d⟩] := List.append_cancel_left (hr.symm.trans hres)
  rw [List.singleton_inj.mp hlast]

section
variable {s t : State} {r : Response}

/-- ENCODE returns OK with the frame, or EncodingError (R106). -/
theorem execEncode_status {a c : Int} {sa : Addr} {so : Off} {p : List Byte} (h : execEncode a c sa so p s = .next t)
    (hr : t.results = s.results ++ [r]) : r.status = 0 ∨ r.status = 1 := by
  cases hf : encodeFrame a c sa so p with
  | some f => exact .inl (status_of_outcome h hr (execEncode_of_some hf s) rfl)
  | none => exact .inr (status_of_outcome h hr (execEncode_of_none hf s) rfl)

/-- DECODE returns OK with the fields, or DecodingError (R110). -/
theorem execDecode_status {f : List Byte} (h : execDecode f s = .next t) (hr : t.results = s.results ++ [r]) :
    r.status = 0 ∨ r.status = 2 := by
  cases hf : splitFrame f with
  | some hp => exact .inl (status_of_outcome h hr (execDecode_of_splitFrame_some hf s) rfl)
  | none => exact .inr (status_of_outcome h hr (execDecode_of_splitFrame_none hf s) rfl)

/-- Outside a session CONSTRUCT returns OK, or TransportOpenError where no transport is present (R131, R132). -/
theorem execConstruct_status {sa : Addr} {so : Off} {tp : Bool} (hb : busy s = false) (hl : live s = false)
    (h : execConstruct sa so tp s = .next t) (hr : t.results = s.results ++ [r]) : r.status = 0 ∨ r.status = 4 := by
  cases tp with
  | true =>
    have hexec : execConstruct sa so true s = .next (returnOk .nothing (openSession sa so s)) := by
      simp [execConstruct, hb, hl]
    exact .inl (status_of_outcome h hr hexec rfl)
  | false =>
    have hexec : execConstruct sa so false s = .next (raiseError .transportOpenError s) := by
      simp [execConstruct, hb, hl]
    exact .inr (status_of_outcome h hr hexec rfl)

/-- SEND returns at once with EncodingError or SessionClosedError only: a SEND that starts its write has not returned
(R134, R136, R137). -/
theorem execSend_status {a c : Int} {p : List Byte} (hb : busy s = false) (h : execSend a c p s = .next t)
    (hr : t.results = s.results ++ [r]) : r.status = 1 ∨ r.status = 5 := by
  cases hl : live s with
  | false =>
    have hexec : execSend a c p s = .next (raiseError .sessionClosedError s) := by simp [execSend, hb, hl]
    exact .inr (status_of_outcome h hr hexec rfl)
  | true =>
    cases hf : encodeFrame a c s.saddr s.soff p with
    | none =>
      have hexec : execSend a c p s = .next (raiseError .encodingError s) := by simp [execSend, hb, hl, hf]
      exact .inl (status_of_outcome h hr hexec rfl)
    | some f =>
      have hexec : execSend a c p s = .next (startWrite f s) := by simp [execSend, hb, hl, hf]
      obtain rfl : t = startWrite f s := Host.Outcome.next.inj (h.symm.trans hexec)
      simp at hr

/-- In a session CLOSE returns OK (R146). -/
theorem execClose_status (hb : busy s = false) (hl : live s = true) (h : execClose s = .next t)
    (hr : t.results = s.results ++ [r]) : r.status = 0 := by
  have hexec : execClose s = .next (returnOk .nothing (closeSession s)) := by simp [execClose, hb, hl]
  exact status_of_outcome h hr hexec rfl

end

/-- Settles O49, by the operation: a session operation that is taken finds no SEND unreturned, and whether a session
is live decides the rest. -/
theorem statusesByOperation : Obligations.StatusesByOperation := by
  intro i s t r h hready hr
  cases i with
  | encode a c sa so p => exact execEncode_status h hr
  | decode f => exact execDecode_status h hr
  | construct sa so tp =>
    have hb : busy s = false := busy_eq_false_of_cmdReady rfl hready
    cases hl : live s with
    | true => exact .inl rfl
    | false => exact .inr (execConstruct_status hb hl h hr)
  | send a c p => exact execSend_status (busy_eq_false_of_cmdReady rfl hready) h hr
  | close =>
    have hb : busy s = false := busy_eq_false_of_cmdReady rfl hready
    cases hl : live s with
    | true => exact .inr (execClose_status hb hl h hr)
    | false => exact .inl rfl
  | frameHeader hd => cases hready

end Sys2Proof.Proofs
end
